-- ==== Sys2Proof/Word.lean ====
section
/-! DEFINITION. The two data widths of the BPE: 32-bit registers and bus words (R6), 8-bit pixels (R6). -/

namespace Sys2Proof

/-- A register, a bus word or a command word: 32 bits (00_scope.md R6, 10_state.md R21). -/
abbrev Word := BitVec 32

/-- One pixel, or any byte of PIXMEM: 8 bits (20_memory.md R72). -/
abbrev Byte := BitVec 8

end Sys2Proof
end

