-- ==== Sys2Proof/Syntax.lean ====
section
/-! DEFINITION. The commands of the BPE: one constructor for each row of spec/opcode_table.json. -/

namespace Sys2Proof

/-- THRESH's RND bit (30_encoding.md R103): how 255·t becomes the cut. -/
inductive Rounding where
  | truncate   -- RND = 0: floor(255 t)
  | nearest    -- RND = 1: floor(255 t + 1/2)
  deriving DecidableEq, Repr

/-- THRESH's POL bit (30_encoding.md R103): the sense of the comparison. -/
inductive Polarity where
  | inverted   -- POL = 0: v > cut gives 0, otherwise 255
  | direct     -- POL = 1: v > cut gives 255, otherwise 0
  deriving DecidableEq, Repr

/-- FILTER's two-bit field BMODE (30_encoding.md R104). The last two values are reserved: WellFormed refuses them. -/
inductive BMode where
  | replicate     -- 00
  | zeroPad       -- 01
  | reservedTwo   -- 10
  | reservedThree -- 11
  deriving DecidableEq, Repr

/-- PAD's FILL bit (30_encoding.md R105): what an inserted padding byte holds. -/
inductive Fill where
  | zero   -- FILL = 0: 0x00
  | next   -- FILL = 1: the first pixel of the next row
  deriving DecidableEq, Repr

/-- A command (30_encoding.md R102). A command has no immediate and no register field: its operands are fixed
registers (R101), so only the mode bits appear here. -/
inductive Instr where
  | nop
  | thresh (rnd : Rounding) (pol : Polarity)
  | filter (bmode : BMode)
  | unpad
  | pad (fill : Fill)
  | kclear
  deriving DecidableEq, Repr

end Sys2Proof
end

