-- ==== Sys2Proof/WellFormed.lean ====
section
/-! DEFINITION. Which commands exist: the one check is that FILTER's BMODE is not reserved. -/

namespace Sys2Proof

/-- BMODE 10 and 11 are reserved and illegal (30_encoding.md R104). -/
def BMode.legal : BMode → Bool
  | .replicate => true
  | .zeroPad => true
  | .reservedTwo => false
  | .reservedThree => false

/-- A command some legal word spells (30_encoding.md R107). -/
def Instr.wf : Instr → Bool
  | .nop => true
  | .thresh _ _ => true
  | .filter bmode => bmode.legal
  | .unpad => true
  | .pad _ => true
  | .kclear => true

end Sys2Proof
end

