-- ==== Sys2Proof/Decode.lean ====
section
/-! DEFINITION. The decoder of 30_encoding.md R108, total on every 32-bit word and refusing by name; then the encoder,
written from the field tables R100 to R106; and the assembler's spelling of the legal words (R109). -/

namespace Sys2Proof

/-- Why a word is ILLEGAL (30_encoding.md R108; the causes as 60_exceptions.md R250 lists them for ERR_CMD). -/
inductive DecodeError where
  /-- RSVD, bits [31:8], is not 0. -/
  | reservedBits
  /-- OP is one of 0x6 to 0xF. -/
  | reservedOpcode
  /-- a MODE bit the opcode does not define is 1. -/
  | undefinedMode
  /-- FILTER with BMODE = 10 or 11. -/
  | reservedBMode
  deriving DecidableEq, Repr

/-- OP, bits [3:0] (30_encoding.md R100). -/
def opField (c : Word) : BitVec 4 := c.extractLsb' 0 4

/-- MODE, bits [7:4] (30_encoding.md R100). -/
def modeField (c : Word) : BitVec 4 := c.extractLsb' 4 4

/-- RSVD, bits [31:8] (30_encoding.md R100). -/
def rsvdField (c : Word) : BitVec 24 := c.extractLsb' 8 24

/-- RND is MODE bit 0, that is command bit 4 (30_encoding.md R103). -/
def decodeRnd (md : BitVec 4) : Rounding := if md.getLsbD 0 then .nearest else .truncate

/-- POL is MODE bit 1, that is command bit 5 (30_encoding.md R103). -/
def decodePol (md : BitVec 4) : Polarity := if md.getLsbD 1 then .direct else .inverted

/-- FILL is MODE bit 0, that is command bit 4 (30_encoding.md R105). -/
def decodeFill (md : BitVec 4) : Fill := if md.getLsbD 0 then .next else .zero

/-- THRESH: MODE bits [3:2] must be 0 (30_encoding.md R103, R108). -/
def decodeThresh (md : BitVec 4) : Except DecodeError Instr :=
  if md.extractLsb' 2 2 = 0 then .ok (.thresh (decodeRnd md) (decodePol md)) else .error .undefinedMode

/-- FILTER: MODE bits [3:2] must be 0, and BMODE, MODE bits [1:0], must be 00 or 01 (30_encoding.md R104, R108). -/
def decodeFilter (md : BitVec 4) : Except DecodeError Instr :=
  if md.extractLsb' 2 2 = 0 then
    if md.getLsbD 1 then .error .reservedBMode
    else .ok (.filter (if md.getLsbD 0 then .zeroPad else .replicate))
  else .error .undefinedMode

/-- PAD: MODE bits [3:1] must be 0 (30_encoding.md R105, R108). -/
def decodePad (md : BitVec 4) : Except DecodeError Instr :=
  if md.extractLsb' 1 3 = 0 then .ok (.pad (decodeFill md)) else .error .undefinedMode

/-- NOP, UNPAD and KCLEAR: all four MODE bits must be 0 (30_encoding.md R106). -/
def decodePlain (i : Instr) (md : BitVec 4) : Except DecodeError Instr :=
  if md = 0 then .ok i else .error .undefinedMode

/-- The decoder (30_encoding.md R108). -/
def decode (c : Word) : Except DecodeError Instr :=
  if rsvdField c = 0 then
    match (opField c).toNat with
    | 0 => decodePlain .nop (modeField c)
    | 1 => decodeThresh (modeField c)
    | 2 => decodeFilter (modeField c)
    | 3 => decodePlain .unpad (modeField c)
    | 4 => decodePad (modeField c)
    | 5 => decodePlain .kclear (modeField c)
    | _ => .error .reservedOpcode
  else .error .reservedBits

/-- The row of the opcode map an instruction stands in (30_encoding.md R102). -/
def encodeOp : Instr → BitVec 4
  | .nop => 0x0
  | .thresh _ _ => 0x1
  | .filter _ => 0x2
  | .unpad => 0x3
  | .pad _ => 0x4
  | .kclear => 0x5

/-- THRESH's mode bits, POL above RND (30_encoding.md R103). -/
def encodeThreshMode : Rounding → Polarity → BitVec 4
  | .truncate, .inverted => 0b0000
  | .nearest, .inverted => 0b0001
  | .truncate, .direct => 0b0010
  | .nearest, .direct => 0b0011

/-- BMODE (30_encoding.md R104). -/
def encodeBMode : BMode → BitVec 4
  | .replicate => 0b0000
  | .zeroPad => 0b0001
  | .reservedTwo => 0b0010
  | .reservedThree => 0b0011

/-- FILL (30_encoding.md R105). -/
def encodeFill : Fill → BitVec 4
  | .zero => 0b0000
  | .next => 0b0001

/-- The MODE field (30_encoding.md R103 to R106). -/
def encodeMode : Instr → BitVec 4
  | .nop => 0
  | .thresh rnd pol => encodeThreshMode rnd pol
  | .filter bmode => encodeBMode bmode
  | .unpad => 0
  | .pad fill => encodeFill fill
  | .kclear => 0

/-- The command word of an instruction: RSVD = 0, MODE, OP (30_encoding.md R100). -/
def encode (i : Instr) : Word := (0 : BitVec 24) ++ encodeMode i ++ encodeOp i

/-- The assembler's mnemonics for the legal words (30_encoding.md R109), `filter` being the alias of `filter.rep`;
a spelling not listed is an assembly error. -/
def assemble : String → Option Instr
  | "nop" => some .nop
  | "thresh" => some (.thresh .truncate .inverted)
  | "thresh.rnd" => some (.thresh .nearest .inverted)
  | "thresh.pos" => some (.thresh .truncate .direct)
  | "thresh.rnd.pos" => some (.thresh .nearest .direct)
  | "filter.rep" => some (.filter .replicate)
  | "filter" => some (.filter .replicate)
  | "filter.zero" => some (.filter .zeroPad)
  | "unpad" => some .unpad
  | "pad" => some (.pad .zero)
  | "pad.next" => some (.pad .next)
  | "kclear" => some .kclear
  | _ => none

/-- The command word that the `nbits` low bits of `w` are, the bits above them being 0: every command is exactly one
32-bit word (30_encoding.md R100). -/
def tableWord (nbits w : Nat) : Word := BitVec.ofNat 32 (w % 2 ^ nbits)

/-- What the decoder reads from a row of the opcode table. -/
def decodeTableWord (nbits w : Nat) : Option Instr :=
  match decode (tableWord nbits w) with
  | .ok i => some i
  | .error _ => none

end Sys2Proof
end

