-- ==== Sys2Proof/Config.lean ====
section
/-! DEFINITION. What is fixed for one BPE (the OPEN parameter MEM_BYTES and the fixed quantities of 00_scope.md R6),
and the free values the spec leaves unspecified. -/

namespace Sys2Proof

/-- The configuration of a model (00_scope.md R14): the size in bytes of PIXMEM.
The machine carries it in its state, and no step changes it, so a statement about every state is a statement about
every MEM_BYTES (log entry 1). -/
structure Config where
  memBytes : Nat
  deriving DecidableEq, Repr

namespace Config

/-- The constraint on MEM_BYTES: a multiple of 4 with 4 ≤ MEM_BYTES ≤ 2^24 (00_scope.md R6). -/
abbrev Legal (c : Config) : Prop := c.memBytes % 4 = 0 ∧ 4 ≤ c.memBytes ∧ c.memBytes ≤ 2 ^ 24

/-- The suggested value, 2^20 (00_scope.md R6, 92_eei_decisions.md D4). DESIGN CHOICE: State.reset uses it (log entry 1). -/
def suggested : Config := { memBytes := 2 ^ 20 }

/-- The byte that PIXMEM address `a` holds after the reset number `epoch`, until it is written: one free draw per byte
at each reset (20_memory.md R79, 93_implementation_defined.md I1, I3, I13). It has no value in Lean. -/
opaque freePix (epoch a : Nat) : Byte

end Config

/-- The identification value "BP", 1, 0 (10_state.md R22). -/
def idValue : Word := 0x42500100

/-- Offset of the first byte after the register page (20_memory.md R71). -/
def registerPageEnd : Nat := 0x1000

/-- Offset of the PIXMEM window in the host aperture (20_memory.md R71). -/
def windowBase : Nat := 0x1000000

end Sys2Proof
end

