-- ==== Sys2Proof/Machine/State.lean ====
section
/-! DEFINITION. The state of the BPE (10_state.md, 20_memory.md), its reasons to stop, and the state after reset. -/

namespace Sys2Proof.Machine

/-- The result codes a completion can report (60_exceptions.md R250). Codes 8 to 15 are never reported
(93_implementation_defined.md I9), so they have no constructor. -/
inductive ECode where
  | ok
  | errCmd
  | errParam
  | errKsize
  | errPixsize
  | errDim
  | errRange
  | errOverlap
  deriving DecidableEq, Repr

/-- The STATUS register (10_state.md R24): four flags and the 4-bit code of the last completion.
Its reserved bits read as 0 and have no storage. -/
structure Status where
  busy   : Bool
  done   : Bool
  err    : Bool
  busywr : Bool
  ecode  : ECode
  deriving DecidableEq, Repr

/-- A word offset in the host aperture: the aperture has 2^25 bytes and the two low address bits are not carried
(20_memory.md R70, R73), so 23 bits remain and a misaligned access cannot be presented. -/
abbrev BusAddr := BitVec 23

/-- What happens next outside the model's control: one entry of the interleaving of host accesses and engine
completions that every execution is (20_memory.md R82). -/
inductive Turn where
  /-- The engine moves: if a command is pending, it completes now (43_control.md R231). -/
  | engine
  /-- The host reads the word at `wa` (10_state.md R45, 20_memory.md R73). -/
  | read (wa : BusAddr)
  /-- The host writes `v` at `wa` with the byte strobes `strb` (10_state.md R42, 20_memory.md R73). -/
  | write (wa : BusAddr) (v : Word) (strb : BitVec 4)
  /-- The reset input is asserted and deasserted (70_reset_and_hazards.md R280). -/
  | reset
  deriving DecidableEq, Repr

/-- The bytes of PIXMEM written since the last reset, as (address, byte) pairs. -/
abbrev Memory := List Host.Cell

/-- The whole state. CMD, KDATA, PADB, STRIDE, USIZE, PSIZE, ID and MEMSIZE have no storage of their own
(10_state.md R22, R26, R34, R36 to R40). -/
structure State where
  /-- MEM_BYTES (00_scope.md R6); MEMSIZE reads it (10_state.md R40). No step changes it. -/
  cfg    : Config
  /-- CTRL.IE (10_state.md R23); CTRL's other bits read as 0. -/
  ctrlIE : Bool
  /-- STATUS (10_state.md R24). -/
  status : Status
  /-- SRC (10_state.md R27). -/
  src    : Word
  /-- DST (10_state.md R28). -/
  dst    : Word
  /-- WIDTH (10_state.md R29). -/
  width  : Word
  /-- HEIGHT (10_state.md R30). -/
  height : Word
  /-- SRCLEN (10_state.md R31). -/
  srclen : Word
  /-- THR (10_state.md R32). -/
  thr    : Word
  /-- K0 .. K8 (10_state.md R33). -/
  k      : Vector Word 9
  /-- KCOUNT, bits [7:0] (10_state.md R35). -/
  kcount : BitVec 8
  /-- PENDING, the command word latched at issue (10_state.md R47). -/
  pending : Word
  /-- PIXMEM (20_memory.md R72): the bytes written since reset; every other byte is a free draw (R79). -/
  pixmem : Memory
  /-- The model's own: how many resets there have been. It selects the free draws of PIXMEM (log entry 3). -/
  resets : Nat
  /-- The model's own: the interleaving still to be played, the next turn first (log entry 4). -/
  agenda : List Turn
  /-- The model's own: the data every host read has returned, the latest first (00_scope.md R14; log entry 5). -/
  reads  : List Word
  deriving DecidableEq, Repr

/-- The BPE has no faults and no traps: an error is a result code of a command that completes
(60_exceptions.md R256), and every host access completes (10_state.md R41 to R45, 20_memory.md R71).
So no step raises a fault, and the type has no constructor. -/
inductive Fault where
  deriving DecidableEq, Repr

/-- Reasons for which the model gives an instruction no meaning. -/
inductive Refusal where
  /-- Raised by an arm of exec whose instruction has no meaning in the model yet, and by nothing else.
  Safe: the model stops where the hardware goes on. -/
  | notModelled (mnemonic : String)
  deriving DecidableEq, Repr

/-- STATUS after reset (10_state.md R24, R49). -/
def Status.reset : Status :=
  { busy := false, done := false, err := false, busywr := false, ecode := .ok }

/-- A BPE of configuration `cfg` right after its first reset, with nothing on the agenda (10_state.md R49).
PENDING is unspecified after reset and nothing reads it: DESIGN CHOICE 0, which I2 allows (log entry 2).
The model's own fields start empty: DESIGN CHOICE (log entries 3, 4 and 5). -/
def State.powerOn (cfg : Config) : State :=
  { cfg := cfg, ctrlIE := false, status := Status.reset,
    src := 0, dst := 0, width := 0, height := 0, srclen := 0, thr := 0,
    k := Vector.replicate 9 0, kcount := 0, pending := 0,
    pixmem := [], resets := 0, agenda := [], reads := [] }

/-- The machine right after reset (10_state.md R49), with the suggested MEM_BYTES (log entry 1). -/
def State.reset : State := State.powerOn Config.suggested

end Sys2Proof.Machine
end

