-- ==== Sys2Proof/Machine/Flags.lean ====
section
/-! DEFINITION. The status flags: the code values, what issue, completion, a dropped write and a host clear do to
STATUS, the word STATUS reads as, and the IRQ line. -/

namespace Sys2Proof.Machine

/-- The 4-bit value of a result code (60_exceptions.md R250). -/
def ECode.code : ECode → BitVec 4
  | .ok => 0
  | .errCmd => 1
  | .errParam => 2
  | .errKsize => 3
  | .errPixsize => 4
  | .errDim => 5
  | .errRange => 6
  | .errOverlap => 7

/-- The word STATUS reads as: BUSY [0], DONE [1], ERR [2], BUSYWR [3], ECODE [11:8], the rest 0 (10_state.md R24). -/
def Status.word (st : Status) : Word :=
  (0 : BitVec 20) ++ st.ecode.code ++ (0 : BitVec 4) ++
    BitVec.ofBool st.busywr ++ BitVec.ofBool st.err ++ BitVec.ofBool st.done ++ BitVec.ofBool st.busy

/-- Issue sets BUSY and nothing else (43_control.md R230). -/
def Status.issued (st : Status) : Status := { st with busy := true }

/-- The end of a successful completion (43_control.md R232). -/
def Status.completed (st : Status) : Status := { st with busy := false, done := true, ecode := .ok }

/-- The end of a completion that raises `e` (43_control.md R232). -/
def Status.raised (e : ECode) (st : Status) : Status :=
  { st with busy := false, done := true, err := true, ecode := e }

/-- A guarded write dropped while BUSY = 1 sets BUSYWR (10_state.md R44). -/
def Status.writeDropped (st : Status) : Status := { st with busywr := true }

/-- A full-strobe host write of `v` to STATUS (10_state.md R25). -/
def Status.cleared (v : Word) (st : Status) : Status :=
  { st with
    done := st.done && !v.getLsbD 1
    err := st.err && !v.getLsbD 2
    busywr := st.busywr && !v.getLsbD 3 }

/-- The IRQ output, a function of CTRL and STATUS only (60_exceptions.md R260, R261). -/
def State.irq (s : State) : Bool := s.ctrlIE && s.status.done

end Sys2Proof.Machine
end

