-- ==== Sys2Proof/Machine/Ops.lean ====
section
/-! DEFINITION. The named operations over PIXMEM and the registers, and the one way a command ends: with success
(`State.complete`) or with an error (`State.raise`, the BPE's counterpart of taking an exception: 60_exceptions.md R256).
Every command runs its checks and its effect through `State.runChecked`. -/

namespace Sys2Proof.Machine

namespace Memory

/-- The canonical form: addresses strictly rising. An unlisted address holds no byte of the list, so no entry can equal
what an unlisted address reads as (log entry 3). -/
abbrev wf (m : Memory) : Prop := m.Pairwise fun c d => c.1 < d.1

/-- The byte listed at address `a`; none is what an unlisted address reads as. -/
def lookup : Memory → Nat → Option Byte
  | [], _ => none
  | c :: m, a => if c.1 = a then some c.2 else lookup m a

/-- Writes the `n` bytes `f 0`, …, `f (n - 1)` at `base`, `base + 1`, … and keeps the canonical form. -/
def storeBlock (m : Memory) (base n : Nat) (f : Nat → Byte) : Memory :=
  m.filter (fun c => c.1 < base) ++ (List.range n).map (fun j => (base + j, f j)) ++
    m.filter (fun c => base + n ≤ c.1)

end Memory

/-- MemRead(a, 1) (00_scope.md R8): the byte written last, or the free draw of that byte (20_memory.md R79).
Applied to the state in which a completion begins it is Mem0(a) (20_memory.md R78). -/
def State.memRead (s : State) (a : Nat) : Byte :=
  (Memory.lookup s.pixmem a).getD (Config.freePix s.resets a)

/-- MemWrite of the `n` bytes `f 0`, …, `f (n - 1)` from address `base` on (00_scope.md R8), all at once
(20_memory.md R78, 43_control.md R231). -/
def State.storeRange (s : State) (base n : Nat) (f : Nat → Byte) : State :=
  { s with pixmem := Memory.storeBlock s.pixmem base n f }

/-- MemWrite(a, 1, v) (00_scope.md R8). -/
def State.memWrite (s : State) (a : Nat) (v : Byte) : State := s.storeRange a 1 fun _ => v

/-- K[i] (10_state.md R33); 0 for an index that is no kernel register. -/
def State.kernelReg (s : State) (i : Nat) : Word := s.k[i]?.getD 0

/-- A KDATA push: the first nine fill K0 to K8, every one is counted, and the count saturates at 255
(42_filter.md R191). -/
def State.pushKernel (s : State) (v : Word) : State :=
  { s with
    k := s.k.setIfInBounds s.kcount.toNat v
    kcount := BitVec.ofNat 8 (min (s.kcount.toNat + 1) 255) }

/-- K0 to K8 and KCOUNT to 0 (42_filter.md R192). -/
def State.clearKernel (s : State) : State := { s with k := Vector.replicate 9 0, kcount := 0 }

/-- Issue of the command word `c` (43_control.md R230). -/
def State.issue (s : State) (c : Word) : State := { s with pending := c, status := s.status.issued }

/-- `complete` (00_scope.md R8): the end of a successful completion (43_control.md R232). PENDING keeps its word, which
nothing reads while BUSY = 0 (10_state.md R47; log entry 2). -/
def State.complete (s : State) : State := { s with status := s.status.completed }

/-- `raise e` (00_scope.md R8): no PIXMEM write, no K or KCOUNT write (43_control.md R232, 60_exceptions.md R256). -/
def State.raise (s : State) (e : ECode) : State := { s with status := s.status.raised e }

/-- The error of the first check that fails: each check is a condition that calls for an error, in the order of
priority of 60_exceptions.md R255. -/
def firstError : List (Bool × ECode) → Option ECode
  | [] => none
  | (bad, e) :: rest => if bad then some e else firstError rest

/-- A completion (43_control.md R231, R232): the first error of the checks is raised, or the effect happens and the
command completes. -/
def State.runChecked (checks : List (Bool × ECode)) (effect : State → State) (s : State) :
    Host.Outcome State Fault Refusal :=
  match firstError checks with
  | some e => .next (s.raise e)
  | none => .next (effect s).complete

/-- The reset input: every register to its reset value, the pending command discarded, all of PIXMEM drawn anew
(70_reset_and_hazards.md R280, R281). What the host still has to do, and what it has read, are not the BPE's. -/
def State.applyReset (s : State) : State :=
  { State.powerOn s.cfg with resets := s.resets + 1, agenda := s.agenda, reads := s.reads }

end Sys2Proof.Machine
end

