-- ==== Sys2Proof/Machine/Operands.lean ====
section
/-! DEFINITION. The operands of the commands: the derived quantities of 00_scope.md R9, the checks every pixel command
makes (60_exceptions.md R251 to R253), the threshold parameter and its cut (41_threshold.md R160 to R164), and the
samples of the convolution (42_filter.md R190 to R195). -/

namespace Sys2Proof.Machine

/-! ### Dimensions, sizes and ranges -/

/-- p = (4 - (w mod 4)) mod 4 (40_padding.md R130). -/
def padBytes (w : Nat) : Nat := (4 - w % 4) % 4

/-- s = w + p (40_padding.md R131). -/
def strideOf (w : Nat) : Nat := w + padBytes w

/-- w = sint32(WIDTH) (00_scope.md R9), as the natural number it is once the dimension check has passed. -/
def State.w (s : State) : Nat := s.width.toInt.toNat

/-- h = sint32(HEIGHT) (00_scope.md R9), as the natural number it is once the dimension check has passed. -/
def State.h (s : State) : Nat := s.height.toInt.toNat

/-- The padded row length s (00_scope.md R9). -/
def State.stride (s : State) : Nat := strideOf s.w

/-- USZ = w * h (00_scope.md R9). -/
def State.usz (s : State) : Nat := s.w * s.h

/-- PSZ = s * h (00_scope.md R9). -/
def State.psz (s : State) : Nat := s.stride * s.h

/-- w ≤ 0 or h ≤ 0 (60_exceptions.md R251). -/
def State.badDim (s : State) : Bool := s.width.toInt ≤ 0 || s.height.toInt ≤ 0

/-- SRCLEN differs from the size a command expects, compared as exact integers (40_padding.md R134, R136). -/
def State.badLength (s : State) (size : Nat) : Bool := s.srclen.toNat != size

/-- src + A > MEM_BYTES or dst + B > MEM_BYTES, on exact integers (60_exceptions.md R252). -/
def State.badRange (s : State) (a b : Nat) : Bool :=
  s.cfg.memBytes < s.src.toNat + a || s.cfg.memBytes < s.dst.toNat + b

/-- [x, x + A) and [y, y + B) intersect (60_exceptions.md R253). -/
def rangesMeet (x a y b : Nat) : Bool := x < y + b && y < x + a

/-- The source range of A bytes and the destination range of B bytes intersect. -/
def State.rangesOverlap (s : State) (a b : Nat) : Bool := rangesMeet s.src.toNat a s.dst.toNat b

/-- What THRESH and FILTER forbid: an overlap other than in place (60_exceptions.md R253). -/
def State.badOverlap (s : State) : Bool := s.dst != s.src && s.rangesOverlap s.usz s.usz

/-! ### The threshold parameter -/

/-- The exponent field E = b[30:23] of a binary32 pattern (41_threshold.md R160). -/
def floatExponent (b : Word) : Nat := (b.extractLsb' 23 8).toNat

/-- The fraction field F = b[22:0] of a binary32 pattern (41_threshold.md R160). -/
def floatFraction (b : Word) : Nat := (b.extractLsb' 0 23).toNat

/-- The sign S = b[31] of a binary32 pattern, as the factor (-1)^S (41_threshold.md R160). -/
def floatSign (b : Word) : ℚ := if b.getLsbD 31 then -1 else 1

/-- The exact rational number a binary32 pattern denotes; none for the infinities and NaN (41_threshold.md R160).
The commands use the integer forms below; statements relate the two. -/
def thresholdValue (b : Word) : Option ℚ :=
  if floatExponent b = 255 then none
  else if floatExponent b = 0 then some (floatSign b * floatFraction b * 2 ^ (-149 : ℤ))
  else some (floatSign b * (2 ^ 23 + floatFraction b) * 2 ^ ((floatExponent b : ℤ) - 150))

/-- The pattern is a number t with 0 ≤ t ≤ 1, -0 included (41_threshold.md R161). -/
def validThreshold (b : Word) : Bool := b.toNat ≤ 0x3F800000 || b == 0x80000000

/-- The cut of a valid pattern in the integer form of 41_threshold.md R163. -/
def cutOf (b : Word) (rnd : Rounding) : Nat :=
  if b = 0x3F800000 then 255
  else if floatExponent b = 0 then 0
  else
    let m := 2 ^ 23 + floatFraction b
    let sh := 150 - floatExponent b
    match rnd with
    | .truncate => (255 * m) >>> sh
    | .nearest => (255 * m + 2 ^ (sh - 1)) >>> sh

/-- The comparator (41_threshold.md R164): an unsigned comparison of the pixel with the cut. -/
def thresholdPixel (pol : Polarity) (cut : Nat) (v : Byte) : Byte :=
  match pol with
  | .inverted => if cut < v.toNat then 0x00 else 0xFF
  | .direct => if cut < v.toNat then 0xFF else 0x00

/-! ### The convolution -/

/-- clampRow and clampCol: a position one step outside [0, extent) moves one step toward the inside
(42_filter.md R194). -/
def clampStep (extent : Nat) (x : Int) : Int :=
  if x = -1 then x + 1 else if x = extent then x - 1 else x

/-- The byte of the source image at row `ii` and column `jj`, both inside the image (40_padding.md R132). -/
def State.sourcePixel (s : State) (ii jj : Int) : Byte := s.memRead (s.src.toNat + (ii * s.w + jj).toNat)

/-- sample_rep and sample_zero (42_filter.md R194, R195). A reserved BMODE is refused before any sample is taken; it is
given the sample 0 here only so that the function is total. -/
def State.sample (s : State) (bmode : BMode) (ii jj : Int) : Byte :=
  match bmode with
  | .replicate => s.sourcePixel (clampStep s.h ii) (clampStep s.w jj)
  | .zeroPad => if 0 ≤ ii ∧ ii < s.h ∧ 0 ≤ jj ∧ jj < s.w then s.sourcePixel ii jj else 0
  | .reservedTwo => 0
  | .reservedThree => 0

/-- The nine kernel positions (m, n) in the order of the loops of 42_filter.md R197. -/
def kernelPositions : List (Nat × Nat) :=
  [(0, 0), (0, 1), (0, 2), (1, 0), (1, 1), (1, 2), (2, 0), (2, 1), (2, 2)]

/-- The coefficient that weights kernel position (m, n): the row index is flipped, mm = 2 - m, the column index is not
(42_filter.md R197). -/
def State.tapWeight (s : State) (m n : Nat) : Int := (s.kernelReg (3 * (2 - m) + n)).toInt

/-- One output pixel: exact products, the accumulator reduced modulo 256 after every addition (42_filter.md R196, R197). -/
def State.filterPixel (s : State) (bmode : BMode) (i j : Nat) : Byte :=
  BitVec.ofInt 8 (kernelPositions.foldl
    (fun acc p => (acc + (s.sample bmode (i + p.1 - 1) (j + p.2 - 1)).toNat * s.tapWeight p.1 p.2) % 256) (0 : Int))

/-! ### Padding -/

/-- padfill(r) (40_padding.md R137). -/
def State.padFill (s : State) (fill : Fill) (r : Nat) : Byte :=
  match fill with
  | .zero => 0x00
  | .next => if r + 1 < s.h then s.memRead (s.src.toNat + (r + 1) * s.w) else 0x00

end Sys2Proof.Machine
end

