-- ==== Sys2Proof/Machine/Control.lean ====
section
/-! DEFINITION. The meaning of NOP (43_control.md). -/

namespace Sys2Proof.Machine

/-- NOP: `complete` (43_control.md R233). -/
def execNop (s : State) : Host.Outcome State Fault Refusal := s.runChecked [] fun s => s

end Sys2Proof.Machine
end

