-- ==== Sys2Proof/Machine/Filter.lean ====
section
/-! DEFINITION. The meanings of KCLEAR and FILTER (42_filter.md). -/

namespace Sys2Proof.Machine

/-- KCLEAR (42_filter.md R192). -/
def execKclear (s : State) : Host.Outcome State Fault Refusal := s.runChecked [] State.clearKernel

/-- The byte FILTER writes at destination offset `j`, which is pixel (j / w, j mod w) (42_filter.md R197). -/
def State.filterByte (s : State) (bmode : BMode) (j : Nat) : Byte := s.filterPixel bmode (j / s.w) (j % s.w)

/-- FILTER (42_filter.md R197). No legal word spells a reserved BMODE; the term reports ERR_CMD, as the words that hold
those bits do (R197 "ERR_CMD for an illegal word, including BMODE = 10 or 11"). -/
def execFilter (bmode : BMode) (s : State) : Host.Outcome State Fault Refusal :=
  s.runChecked
    [(!bmode.legal, .errCmd), (s.kcount != 9, .errKsize), (s.badDim, .errDim), (s.badRange s.usz s.usz, .errRange),
      (s.badOverlap, .errOverlap)]
    fun s => s.storeRange s.dst.toNat s.usz (s.filterByte bmode)

end Sys2Proof.Machine
end

