-- ==== Sys2Proof/Machine/Padding.lean ====
section
/-! DEFINITION. The meanings of UNPAD and PAD (40_padding.md). -/

namespace Sys2Proof.Machine

/-- The byte UNPAD writes at destination offset `j`, which is pixel (j / w, j mod w) (40_padding.md R132, R134). -/
def State.unpadByte (s : State) (j : Nat) : Byte :=
  s.memRead (s.src.toNat + (j / s.w) * s.stride + j % s.w)

/-- UNPAD (40_padding.md R134). -/
def execUnpad (s : State) : Host.Outcome State Fault Refusal :=
  s.runChecked
    [(s.badDim, .errDim), (s.badLength s.psz, .errPixsize), (s.badRange s.psz s.usz, .errRange),
      (s.rangesOverlap s.psz s.usz, .errOverlap)]
    fun s => s.storeRange s.dst.toNat s.usz s.unpadByte

/-- The byte PAD writes at destination offset `j`, which is column j mod s of row j / s: a pixel, or a padding byte
(40_padding.md R132, R136). -/
def State.paddedByte (s : State) (fill : Fill) (j : Nat) : Byte :=
  if j % s.stride < s.w then s.memRead (s.src.toNat + (j / s.stride) * s.w + j % s.stride)
  else s.padFill fill (j / s.stride)

/-- PAD (40_padding.md R136). -/
def execPad (fill : Fill) (s : State) : Host.Outcome State Fault Refusal :=
  s.runChecked
    [(s.badDim, .errDim), (s.badLength s.usz, .errPixsize), (s.badRange s.usz s.psz, .errRange),
      (s.rangesOverlap s.usz s.psz, .errOverlap)]
    fun s => s.storeRange s.dst.toNat s.psz (s.paddedByte fill)

end Sys2Proof.Machine
end

