-- ==== Sys2Proof/Machine/Threshold.lean ====
section
/-! DEFINITION. The meaning of THRESH (41_threshold.md). -/

namespace Sys2Proof.Machine

/-- The byte THRESH writes at destination offset `j` (41_threshold.md R165). -/
def State.threshByte (s : State) (rnd : Rounding) (pol : Polarity) (j : Nat) : Byte :=
  thresholdPixel pol (cutOf s.thr rnd) (s.memRead (s.src.toNat + j))

/-- THRESH (41_threshold.md R165). -/
def execThresh (rnd : Rounding) (pol : Polarity) (s : State) : Host.Outcome State Fault Refusal :=
  s.runChecked
    [(!validThreshold s.thr, .errParam), (s.badDim, .errDim), (s.badRange s.usz s.usz, .errRange),
      (s.badOverlap, .errOverlap)]
    fun s => s.storeRange s.dst.toNat s.usz (s.threshByte rnd pol)

end Sys2Proof.Machine
end

