-- ==== Sys2Proof/Machine/Dispatch.lean ====
section
/-! DEFINITION. The dispatch from a command to its meaning, one arm per row of the opcode map (30_encoding.md R102). -/

namespace Sys2Proof.Machine

def exec (i : Instr) (s : State) : Host.Outcome State Fault Refusal :=
  match i with
  | .nop => Sys2Proof.Machine.execNop s
  | .thresh rnd pol => Sys2Proof.Machine.execThresh rnd pol s
  | .filter bmode => Sys2Proof.Machine.execFilter bmode s
  | .unpad => Sys2Proof.Machine.execUnpad s
  | .pad fill => Sys2Proof.Machine.execPad fill s
  | .kclear => Sys2Proof.Machine.execKclear s

end Sys2Proof.Machine
end

