-- ==== Sys2Proof/Machine/HostPort.lean ====
section
/-! DEFINITION. The host's bus accesses: the aperture map (20_memory.md R71), the register map with its access rules
(10_state.md R21 to R45), and the PIXMEM window (20_memory.md R73). -/

namespace Sys2Proof.Machine

/-- The registers of the map (10_state.md R21), the nine kernel registers under one name, and the reserved offsets. -/
inductive Reg where
  | id
  | ctrl
  | status
  | cmd
  | src
  | dst
  | width
  | height
  | srclen
  | thr
  | kdata
  | kcount
  | padb
  | stride
  | usize
  | psize
  | kernel (i : Fin 9)
  | memsize
  | reserved
  deriving DecidableEq, Repr

/-- The register at a word-aligned offset of the register page (10_state.md R21). -/
def regAt (off : Nat) : Reg :=
  if off = 0x000 then .id
  else if off = 0x004 then .ctrl
  else if off = 0x008 then .status
  else if off = 0x00C then .cmd
  else if off = 0x010 then .src
  else if off = 0x014 then .dst
  else if off = 0x018 then .width
  else if off = 0x01C then .height
  else if off = 0x020 then .srclen
  else if off = 0x024 then .thr
  else if off = 0x028 then .kdata
  else if off = 0x02C then .kcount
  else if off = 0x030 then .padb
  else if off = 0x034 then .stride
  else if off = 0x038 then .usize
  else if off = 0x03C then .psize
  else if h : 0x040 ≤ off ∧ off ≤ 0x060 then .kernel ⟨(off - 0x040) / 4, by omega⟩
  else if off = 0x064 then .memsize
  else .reserved

/-- What an aperture offset reaches (20_memory.md R71). -/
inductive Region where
  | reg (r : Reg)
  | window (a : Nat)
  | reserved
  deriving DecidableEq, Repr

/-- The byte offset a bus address stands for. -/
def BusAddr.offset (wa : BusAddr) : Nat := 4 * wa.toNat

/-- The bus address of an aperture byte offset. -/
def busAddr (off : Nat) : BusAddr := BitVec.ofNat 23 (off / 4)

/-- The aperture map for a PIXMEM of `memBytes` bytes (20_memory.md R71). -/
def regionAt (memBytes : Nat) (wa : BusAddr) : Region :=
  let off := BusAddr.offset wa
  if off < registerPageEnd then .reg (regAt off)
  else if windowBase ≤ off ∧ off < windowBase + memBytes then .window (off - windowBase)
  else .reserved

/-- The registers whose writes are dropped while BUSY = 1 (10_state.md R21, R44). -/
def Reg.guarded : Reg → Bool
  | .cmd => true
  | .src => true
  | .dst => true
  | .width => true
  | .height => true
  | .srclen => true
  | .thr => true
  | .kdata => true
  | .id => false
  | .ctrl => false
  | .status => false
  | .kcount => false
  | .padb => false
  | .stride => false
  | .usize => false
  | .psize => false
  | .kernel _ => false
  | .memsize => false
  | .reserved => false

/-- PADB: (0 - uint32(WIDTH)) mod 4 (10_state.md R36). -/
def State.padbReg (s : State) : Word := (0 - s.width) % 4

/-- STRIDE (10_state.md R37). -/
def State.strideReg (s : State) : Word := s.width + s.padbReg

/-- USIZE (10_state.md R38). -/
def State.usizeReg (s : State) : Word := s.width * s.height

/-- PSIZE (10_state.md R39). -/
def State.psizeReg (s : State) : Word := s.strideReg * s.height

/-- The value a register reads as (10_state.md R22 to R45). A read has no side effect (R45). -/
def State.readReg (s : State) : Reg → Word
  | .id => idValue
  | .ctrl => (BitVec.ofBool s.ctrlIE).setWidth 32
  | .status => s.status.word
  | .cmd => 0
  | .src => s.src
  | .dst => s.dst
  | .width => s.width
  | .height => s.height
  | .srclen => s.srclen
  | .thr => s.thr
  | .kdata => 0
  | .kcount => s.kcount.setWidth 32
  | .padb => s.padbReg
  | .stride => s.strideReg
  | .usize => s.usizeReg
  | .psize => s.psizeReg
  | .kernel i => s.k.get i
  | .memsize => BitVec.ofNat 32 s.cfg.memBytes
  | .reserved => 0

/-- What an accepted full-strobe write of `v` does (10_state.md R23 to R43, 42_filter.md R191, 43_control.md R230).
Writes to read-only and reserved registers are ignored (R41, R43). -/
def State.storeReg (s : State) (v : Word) : Reg → State
  | .ctrl => { s with ctrlIE := v.getLsbD 0 }
  | .status => { s with status := s.status.cleared v }
  | .cmd => s.issue v
  | .src => { s with src := v }
  | .dst => { s with dst := v }
  | .width => { s with width := v }
  | .height => { s with height := v }
  | .srclen => { s with srclen := v }
  | .thr => { s with thr := v }
  | .kdata => s.pushKernel v
  | .id => s
  | .kcount => s
  | .padb => s
  | .stride => s
  | .usize => s
  | .psize => s
  | .kernel _ => s
  | .memsize => s
  | .reserved => s

/-- A host write to a register: ignored unless all four strobes are set (10_state.md R42); to a guarded register while
BUSY = 1, dropped with BUSYWR set (R44); else accepted. -/
def State.writeReg (s : State) (r : Reg) (v : Word) (strb : BitVec 4) : State :=
  if strb = 0b1111 then
    if r.guarded && s.status.busy then { s with status := s.status.writeDropped } else s.storeReg v r
  else s

/-- HostRead of the window word at PIXMEM address `a`, little-endian (20_memory.md R73). -/
def State.readWindow (s : State) (a : Nat) : Word :=
  s.memRead (a + 3) ++ s.memRead (a + 2) ++ s.memRead (a + 1) ++ s.memRead a

/-- One lane of HostWrite (20_memory.md R73). -/
def State.writeLane (a : Nat) (v : Word) (strb : BitVec 4) (s : State) (j : Nat) : State :=
  if strb.getLsbD j then s.memWrite (a + j) (v.extractLsb' (8 * j) 8) else s

/-- HostWrite of the window word at PIXMEM address `a`, lane by lane (20_memory.md R73). -/
def State.writeWindow (s : State) (a : Nat) (v : Word) (strb : BitVec 4) : State :=
  [0, 1, 2, 3].foldl (State.writeLane a v strb) s

/-- The data a host read returns (20_memory.md R71, R73; 10_state.md R45). -/
def State.readData (s : State) (wa : BusAddr) : Word :=
  match regionAt s.cfg.memBytes wa with
  | .reg r => s.readReg r
  | .window a => s.readWindow a
  | .reserved => 0

/-- A host read that the bus completes: its data is returned and nothing else happens. -/
def State.hostRead (s : State) (wa : BusAddr) : State := { s with reads := s.readData wa :: s.reads }

/-- A host write that the bus completes (20_memory.md R71). -/
def State.hostWrite (s : State) (wa : BusAddr) (v : Word) (strb : BitVec 4) : State :=
  match regionAt s.cfg.memBytes wa with
  | .reg r => s.writeReg r v strb
  | .window a => s.writeWindow a v strb
  | .reserved => s

/-- Whether an access at `wa` stalls: only one to the PIXMEM window while BUSY = 1 (20_memory.md R76). -/
def State.stalls (s : State) (wa : BusAddr) : Bool :=
  s.status.busy &&
    match regionAt s.cfg.memBytes wa with
    | .reg _ => false
    | .window _ => true
    | .reserved => false

end Sys2Proof.Machine
end

