-- ==== Sys2Proof/Machine/Engine.lean ====
section
/-! DEFINITION. The completion of the pending command (43_control.md R231), and the choice of who moves next: the
interleaving of host accesses and engine completions (20_memory.md R82). -/

namespace Sys2Proof.Machine

/-- The completion of PENDING (43_control.md R231): its command's rule, or ERR_CMD for an ILLEGAL word
(30_encoding.md R108). -/
def State.completePending (s : State) : Host.Outcome State Fault Refusal :=
  match decode s.pending with
  | .ok i => exec i s
  | .error _ => .next (s.raise .errCmd)

/-- The engine's move: the completion, enabled only while BUSY = 1 (43_control.md R231); else nothing happens. -/
def State.engineTurn (s : State) : Host.Outcome State Fault Refusal :=
  if s.status.busy then s.completePending else .next s

/-- One step. The next turn of the agenda is taken. With an empty agenda the engine moves, so that a pending command
completes (70_reset_and_hazards.md R289) and an idle BPE stays as it is (60_exceptions.md R267). A window access that
stalls stays on the agenda while the command completes (20_memory.md R76). -/
def State.advance (s : State) : Host.Outcome State Fault Refusal :=
  match s.agenda with
  | [] => s.engineTurn
  | .engine :: rest => { s with agenda := rest }.engineTurn
  | .read wa :: rest =>
    if s.stalls wa then s.completePending else .next ({ s with agenda := rest }.hostRead wa)
  | .write wa v strb :: rest =>
    if s.stalls wa then s.completePending else .next ({ s with agenda := rest }.hostWrite wa v strb)
  | .reset :: rest => .next { s with agenda := rest }.applyReset

/-- The state in which the next step completes the command word `c`: it is PENDING, BUSY = 1, and the engine's turn
comes next. -/
def State.withPending (s : State) (c : Word) : State :=
  { s.issue c with agenda := .engine :: s.agenda }

end Sys2Proof.Machine
end

