-- ==== Sys2Proof/Machine/Step.lean ====
section
/-! DEFINITION. One step of the machine, and a command placed where the next step takes it from. -/

namespace Sys2Proof.Machine

/-- One host access or one engine completion (00_scope.md R13, 20_memory.md R82). -/
def step (s : State) : Host.Outcome State Fault Refusal := s.advance

/-- The BPE fetches nothing (20_memory.md R85): the next command is PENDING, latched when the host writes CMD
(43_control.md R230). So the word is placed there with BUSY = 1, and the engine's turn is put first on the agenda
(log entry 6). -/
def State.withFetchWord (s : State) (nbits w : Nat) : State := s.withPending (tableWord nbits w)

end Sys2Proof.Machine
end

