-- ==== Sys2Proof/Machine/HostProgram.lean ====
section
/-! DEFINITION. The host program statements and pseudo-instructions of 30_encoding.md R110, as the turns they put on the
agenda. -/

namespace Sys2Proof.Machine

/-- The offset of a register (10_state.md R21); for the reserved offsets, the first of them (R41). -/
def Reg.offset : Reg → Nat
  | .id => 0x000
  | .ctrl => 0x004
  | .status => 0x008
  | .cmd => 0x00C
  | .src => 0x010
  | .dst => 0x014
  | .width => 0x018
  | .height => 0x01C
  | .srclen => 0x020
  | .thr => 0x024
  | .kdata => 0x028
  | .kcount => 0x02C
  | .padb => 0x030
  | .stride => 0x034
  | .usize => 0x038
  | .psize => 0x03C
  | .kernel i => 0x040 + 4 * i.val
  | .memsize => 0x064
  | .reserved => 0x068

/-- `wr REG, v`: a full-strobe write (30_encoding.md R110). -/
def wr (r : Reg) (v : Word) : Turn := .write (busAddr r.offset) v 0b1111

/-- `rd REG` (30_encoding.md R110). -/
def rd (r : Reg) : Turn := .read (busAddr r.offset)

/-- `ww a, v`: a full-strobe window write, a mod 4 = 0 (30_encoding.md R110). -/
def ww (a : Nat) (v : Word) : Turn := .write (busAddr (windowBase + a)) v 0b1111

/-- `wb a, b`: a window write with only strobe bit a mod 4 set and b in that lane (30_encoding.md R110). -/
def wb (a : Nat) (b : Byte) : Turn :=
  .write (busAddr (windowBase + (a - a % 4))) (b.setWidth 32 <<< (8 * (a % 4))) (1 <<< (a % 4))

/-- `rw a`: a window read, a mod 4 = 0 (30_encoding.md R110). -/
def rw (a : Nat) : Turn := .read (busAddr (windowBase + a))

/-- `cmd X` (30_encoding.md R110). -/
def cmd (i : Instr) : Turn := wr .cmd (encode i)

/-- `wait`: the polling loop (30_encoding.md R110). How many polls still return BUSY = 1 is the choice of the
interleaving: `polls` of them, then the engine moves, then the poll that ends the loop (log entry 7). -/
def wait (polls : Nat) : List Turn := List.replicate polls (rd .status) ++ [.engine, rd .status]

/-- `clr` (30_encoding.md R110). -/
def clr : Turn := wr .status 0x0000000E

/-- `loadk k0, k1, …, k8`: KCLEAR, the wait, and nine pushes in order (30_encoding.md R110, 70_reset_and_hazards.md
R285). -/
def loadk (polls : Nat) (ks : Vector Word 9) : List Turn :=
  [cmd .kclear] ++ wait polls ++ ks.toList.map (wr .kdata)

/-- `geom w, h` (30_encoding.md R110). -/
def geom (w h : Word) : List Turn := [wr .width w, wr .height h]

end Sys2Proof.Machine
end

