-- ==== Sys2Proof/Safety.lean ====
section
/-! DEFINITION. What counts as a well-kept state and as a safe step, and the words the statements use for what a
completion leaves behind. -/

namespace Sys2Proof.Machine

/-- The invariant every step keeps. -/
structure State.Inv (s : State) : Prop where
  /-- MEM_BYTES is a legal size (00_scope.md R6). -/
  legal : s.cfg.Legal
  /-- PIXMEM is in its canonical form. -/
  canonical : Memory.wf s.pixmem
  /-- No byte is held at or above MEM_BYTES (20_memory.md R72, R80). -/
  inside : ∀ c ∈ s.pixmem, c.1 < s.cfg.memBytes
  /-- A coefficient that no push has filled since KCLEAR or reset is 0 (42_filter.md R191, R192). -/
  unpushed : ∀ i : Fin 9, s.kcount.toNat ≤ i.val → s.k.get i = 0

/-- A step that goes on: the BPE has no traps and accepts the next command whatever happened (60_exceptions.md R256). -/
abbrev SafeStep (s : State) : Prop := ∃ t, step s = .next t

/-- The registers no completion changes (43_control.md R232), PENDING, and the model's own fields. -/
structure EngineKeeps (s t : State) : Prop where
  cfg : t.cfg = s.cfg
  ctrlIE : t.ctrlIE = s.ctrlIE
  busywr : t.status.busywr = s.status.busywr
  src : t.src = s.src
  dst : t.dst = s.dst
  width : t.width = s.width
  height : t.height = s.height
  srclen : t.srclen = s.srclen
  thr : t.thr = s.thr
  pending : t.pending = s.pending
  resets : t.resets = s.resets
  agenda : t.agenda = s.agenda
  reads : t.reads = s.reads

/-- K0 to K8 and KCOUNT are unchanged. -/
abbrev KernelKept (s t : State) : Prop := t.k = s.k ∧ t.kcount = s.kcount

/-- Every byte of PIXMEM reads as before. -/
def PixmemKept (s t : State) : Prop := ∀ a, t.memRead a = s.memRead a

/-- Every byte of PIXMEM outside [base, base + n) reads as before. -/
def PixmemKeptOutside (s t : State) (base n : Nat) : Prop :=
  ∀ a, ¬ (base ≤ a ∧ a < base + n) → t.memRead a = s.memRead a

/-- What a completion with result code `e` leaves in BUSY, DONE, ECODE and ERR (43_control.md R232): ERR is set by an
error and kept by a success. -/
structure Ended (s t : State) (e : ECode) : Prop where
  busy : t.status.busy = false
  done : t.status.done = true
  ecode : t.status.ecode = e
  err : t.status.err = (s.status.err || e != .ok)

/-- Command `i` reports error `e` in state `s` and does nothing else (43_control.md R232, 60_exceptions.md R256). -/
def Fails (i : Instr) (s : State) (e : ECode) : Prop :=
  ∃ t, exec i s = .next t ∧ Ended s t e ∧ EngineKeeps s t ∧ KernelKept s t ∧ PixmemKept s t

/-- THR is a pattern of t in [0, 1] (41_threshold.md R161). -/
abbrev ThresholdOk (s : State) : Prop := s.thr.toNat ≤ 0x3F800000 ∨ s.thr = 0x80000000

/-- w > 0 and h > 0 (60_exceptions.md R251). -/
abbrev DimsOk (s : State) : Prop := 0 < s.width.toInt ∧ 0 < s.height.toInt

/-- A source range of `a` bytes and a destination range of `b` bytes lie inside PIXMEM (60_exceptions.md R252). -/
abbrev RangesOk (s : State) (a b : Nat) : Prop :=
  s.src.toNat + a ≤ s.cfg.memBytes ∧ s.dst.toNat + b ≤ s.cfg.memBytes

/-- The source range of `a` bytes and the destination range of `b` bytes intersect (60_exceptions.md R253). -/
abbrev RangesMeet (s : State) (a b : Nat) : Prop :=
  s.src.toNat < s.dst.toNat + b ∧ s.dst.toNat < s.src.toNat + a

/-- The input pixel in(ii, jj) of the convolution (42_filter.md R194, R195, R198): under replicate the position is
clamped to the nearest edge, under zero-pad a position outside the image reads as 0. -/
def inputPixel (s : State) (bmode : BMode) (ii jj : ℤ) : ℤ :=
  if bmode = .replicate then
    (s.memRead (s.src.toNat + (min (max ii 0) (s.h - 1) * s.w + min (max jj 0) (s.w - 1)).toNat)).toNat
  else if 0 ≤ ii ∧ ii < s.h ∧ 0 ≤ jj ∧ jj < s.w then (s.memRead (s.src.toNat + (ii * s.w + jj).toNat)).toNat
  else 0

/-- kernel[r][c] = sint32(K[3r + c]) (42_filter.md R190). -/
def kernelEntry (s : State) (r c : ℤ) : ℤ := (s.kernelReg (3 * r + c).toNat).toInt

end Sys2Proof.Machine
end

