-- ==== Sys2Proof/Certificates/Slice0/Obligations.lean ====
section
/-! DEFINITION. The statements about the BPE, from the numbered rules of spec/. -/

open Sys2Proof Sys2Proof.Machine

/-! ### Encoding -/

/-- The words of 30_encoding.md R109 decode to the commands they are listed with. -/
def Obligations.LegalWordsDecode : Prop :=
  decode 0x00000000 = .ok .nop ∧
  decode 0x00000001 = .ok (.thresh .truncate .inverted) ∧
  decode 0x00000011 = .ok (.thresh .nearest .inverted) ∧
  decode 0x00000021 = .ok (.thresh .truncate .direct) ∧
  decode 0x00000031 = .ok (.thresh .nearest .direct) ∧
  decode 0x00000002 = .ok (.filter .replicate) ∧
  decode 0x00000012 = .ok (.filter .zeroPad) ∧
  decode 0x00000003 = .ok .unpad ∧
  decode 0x00000004 = .ok (.pad .zero) ∧
  decode 0x00000014 = .ok (.pad .next) ∧
  decode 0x00000005 = .ok .kclear

/-- Decode and encode agree in both directions (30_encoding.md R107, R108): a word decodes to a command exactly when
the command is well-formed and the word is its encoding. -/
def Obligations.DecodeExactlyInvertsEncode : Prop :=
  ∀ (c : Word) (i : Instr), decode c = .ok i ↔ i.wf = true ∧ encode i = c

/-- The match and mask of 30_encoding.md R107 for each command, the 11 legal words, and that no word matches two rows. -/
def Obligations.LegalWordsAreTheTableMatches : Prop :=
  (∀ c : Word,
    (decode c = .ok .nop ↔ c &&& 0xFFFFFFFF = 0x00000000) ∧
    ((∃ r p, decode c = .ok (.thresh r p)) ↔ c &&& 0xFFFFFFCF = 0x00000001) ∧
    ((∃ b, decode c = .ok (.filter b)) ↔ c &&& 0xFFFFFFEF = 0x00000002) ∧
    (decode c = .ok .unpad ↔ c &&& 0xFFFFFFFF = 0x00000003) ∧
    ((∃ f, decode c = .ok (.pad f)) ↔ c &&& 0xFFFFFFEF = 0x00000004) ∧
    (decode c = .ok .kclear ↔ c &&& 0xFFFFFFFF = 0x00000005)) ∧
  (∀ c : Word, [(0x00000000, 0xFFFFFFFF), (0x00000001, 0xFFFFFFCF), (0x00000002, 0xFFFFFFEF),
      (0x00000003, 0xFFFFFFFF), (0x00000004, 0xFFFFFFEF), ((0x00000005 : Word), (0xFFFFFFFF : Word))].Pairwise
    fun x y => ¬ (c &&& x.2 = x.1 ∧ c &&& y.2 = y.1)) ∧
  (∀ c : Word, (∃ i, decode c = .ok i) ↔
    c ∈ ([0x00, 0x01, 0x11, 0x21, 0x31, 0x02, 0x12, 0x03, 0x04, 0x14, 0x05] : List Word))

/-- The spellings of 30_encoding.md R109 assemble to the listed words. -/
def Obligations.AssemblerSpellsTheLegalWords : Prop :=
  (assemble "nop").map encode = some 0x00000000 ∧
  (assemble "thresh").map encode = some 0x00000001 ∧
  (assemble "thresh.rnd").map encode = some 0x00000011 ∧
  (assemble "thresh.pos").map encode = some 0x00000021 ∧
  (assemble "thresh.rnd.pos").map encode = some 0x00000031 ∧
  (assemble "filter.rep").map encode = some 0x00000002 ∧
  (assemble "filter").map encode = some 0x00000002 ∧
  (assemble "filter.zero").map encode = some 0x00000012 ∧
  (assemble "unpad").map encode = some 0x00000003 ∧
  (assemble "pad").map encode = some 0x00000004 ∧
  (assemble "pad.next").map encode = some 0x00000014 ∧
  (assemble "kclear").map encode = some 0x00000005

/-! ### The step -/

/-- A step runs the decoded command (43_control.md R231): while BUSY = 1, on the engine's turn, on an empty agenda, and
when the next host access is one to the PIXMEM window, which stalls (20_memory.md R76), the step is the execution of the
command PENDING decodes to.
The agenda is the model's own device for the interleaving (log entry 4). -/
def Obligations.StepRunsThePendingCommand : Prop :=
  ∀ (s : State) (i : Instr), s.status.busy = true → decode s.pending = .ok i →
    (∀ rest, s.agenda = .engine :: rest → step s = exec i { s with agenda := rest }) ∧
    (s.agenda = [] → step s = exec i s) ∧
    (∀ wa rest, s.agenda = .read wa :: rest → windowBase ≤ 4 * wa.toNat → 4 * wa.toNat < windowBase + s.cfg.memBytes →
      step s = exec i s) ∧
    (∀ wa v strb rest, s.agenda = .write wa v strb :: rest → windowBase ≤ 4 * wa.toNat →
      4 * wa.toNat < windowBase + s.cfg.memBytes → step s = exec i s)

/-- An ILLEGAL word completes with ECODE = ERR_CMD and no other effect (30_encoding.md R108, 60_exceptions.md R250): on the
engine's turn, on an empty agenda, and when the next host access is one to the PIXMEM window, which stalls (20_memory.md
R76).
The agenda is the model's own form of the interleaving (log entry 4). -/
def Obligations.IllegalWordReportsErrCmd : Prop :=
  ∀ (s : State) (e : DecodeError), s.status.busy = true → decode s.pending = .error e →
    let st : Status := { s.status with busy := false, done := true, err := true, ecode := .errCmd }
    (∀ rest, s.agenda = .engine :: rest → step s = .next { s with agenda := rest, status := st }) ∧
    (s.agenda = [] → step s = .next { s with status := st }) ∧
    (∀ wa rest, s.agenda = .read wa :: rest → windowBase ≤ 4 * wa.toNat → 4 * wa.toNat < windowBase + s.cfg.memBytes →
      step s = .next { s with status := st }) ∧
    (∀ wa v strb rest, s.agenda = .write wa v strb :: rest → windowBase ≤ 4 * wa.toNat →
      4 * wa.toNat < windowBase + s.cfg.memBytes → step s = .next { s with status := st })

/-- An idle BPE stays as it is (60_exceptions.md R267): with nothing on the agenda nothing changes, and an engine turn
has nothing to complete (43_control.md R231).
The agenda is the model's own device (log entry 4). -/
def Obligations.IdleEngineDoesNothing : Prop :=
  ∀ s : State, s.status.busy = false →
    (s.agenda = [] → step s = .next s) ∧
    (∀ rest, s.agenda = .engine :: rest → step s = .next { s with agenda := rest })

/-- No step stops: from every state a step gives a next state, because there are no faults and no traps
(60_exceptions.md R256).
The agenda is the model's own form of the interleaving (log entry 4). -/
def Obligations.EveryStepGoesOn : Prop := ∀ s : State, SafeStep s

/-- Every step keeps the invariant: MEM_BYTES stays legal, PIXMEM stays canonical and below MEM_BYTES, and a coefficient
no push has filled is 0.
The canonical form of the list that holds PIXMEM is the model's own (log entry 3).
The agenda is the model's own form of the interleaving (log entry 4). -/
def Obligations.StepKeepsTheInvariant : Prop :=
  ∀ s t : State, s.Inv → step s = .next t → t.Inv

/-- The invariant holds after reset, for every legal MEM_BYTES, and for State.reset, whose MEM_BYTES is the model's choice
(log entry 1). -/
def Obligations.ResetMeetsTheInvariant : Prop :=
  State.reset.Inv ∧ ∀ cfg : Config, cfg.Legal → (State.powerOn cfg).Inv

/-- The end of every completion (43_control.md R232): DONE is set, BUSY cleared, ECODE holds the result, ERR is set by an
error; the registers R232 lists are never changed, and an error changes neither PIXMEM nor the kernel file. -/
def Obligations.EveryCommandCompletes : Prop :=
  ∀ (i : Instr) (s : State), ∃ t e, exec i s = .next t ∧ Ended s t e ∧ EngineKeeps s t ∧
    (e ≠ .ok → KernelKept s t ∧ PixmemKept s t)

/-! ### NOP and KCLEAR -/

/-- NOP (43_control.md R233): it completes with ECODE 0, reads and writes nothing but STATUS, raises the interrupt when
CTRL.IE = 1, and a word with OP = 0 and any other bit set is illegal. -/
def Obligations.NopOnlyReportsCompletion : Prop :=
  encode .nop = 0x00000000 ∧
  (∀ s : State, exec .nop s =
    .next { s with status := { s.status with busy := false, done := true, ecode := .ok } }) ∧
  (∀ s t : State, s.ctrlIE = true → exec .nop s = .next t → t.irq = true) ∧
  (∀ (c : Word), opField c = 0 → c ≠ 0 → ∀ s : State, s.pending = c →
    s.completePending =
      .next { s with status := { s.status with busy := false, done := true, err := true, ecode := .errCmd } }) ∧
  (∀ (s t : State) (c : Word), s.readReg .status = 0 → exec .nop (s.issue c) = .next t →
    t.readReg .status = 0x00000002)

/-- KCLEAR (42_filter.md R192): K0 to K8 and KCOUNT become 0, ECODE is 0, and nothing else changes. -/
def Obligations.KclearClearsTheKernelFile : Prop :=
  ∀ s : State, ∃ t, exec .kclear s = .next t ∧ Ended s t .ok ∧ EngineKeeps s t ∧
    (∀ i : Fin 9, t.k.get i = 0) ∧ t.kcount = 0 ∧ PixmemKept s t

/-! ### THRESH -/

/-- THRESH completes and binarises (41_threshold.md R165, R164): byte k of the destination is 0 or 255 by the unsigned
comparison of byte k of the source, as it was, with the cut; everything else is unchanged. -/
def Obligations.ThreshBinarisesTheBuffer : Prop :=
  ∀ (s : State) (rnd : Rounding) (pol : Polarity), ThresholdOk s → DimsOk s → RangesOk s s.usz s.usz →
    (s.dst = s.src ∨ ¬ RangesMeet s s.usz s.usz) →
    ∃ t, exec (.thresh rnd pol) s = .next t ∧ Ended s t .ok ∧ EngineKeeps s t ∧ KernelKept s t ∧
      (∀ j, j < s.usz → t.memRead (s.dst.toNat + j) =
        match pol with
        | .inverted => if cutOf s.thr rnd < (s.memRead (s.src.toNat + j)).toNat then 0x00 else 0xFF
        | .direct => if cutOf s.thr rnd < (s.memRead (s.src.toNat + j)).toNat then 0xFF else 0x00) ∧
      PixmemKeptOutside s t s.dst.toNat s.usz

/-- THRESH's errors in their priority (41_threshold.md R165, 60_exceptions.md R251 to R255). -/
def Obligations.ThreshReportsTheFirstError : Prop :=
  ∀ (s : State) (rnd : Rounding) (pol : Polarity),
    (¬ ThresholdOk s → Fails (.thresh rnd pol) s .errParam) ∧
    (ThresholdOk s → ¬ DimsOk s → Fails (.thresh rnd pol) s .errDim) ∧
    (ThresholdOk s → DimsOk s → ¬ RangesOk s s.usz s.usz → Fails (.thresh rnd pol) s .errRange) ∧
    (ThresholdOk s → DimsOk s → RangesOk s s.usz s.usz → s.dst ≠ s.src → RangesMeet s s.usz s.usz →
      Fails (.thresh rnd pol) s .errOverlap)

/-- THRESH with an invalid t reports ERR_PARAM and leaves every byte as it was (41_threshold.md R167). -/
def Obligations.InvalidThresholdLeavesPixmem : Prop :=
  ∀ (s : State) (rnd : Rounding) (pol : Polarity), validThreshold s.thr = false →
    ∃ t, exec (.thresh rnd pol) s = .next t ∧ t.status.ecode = .errParam ∧ t.status.err = true ∧ PixmemKept s t

/-- The valid patterns (41_threshold.md R161): exactly those that denote a number t with 0 ≤ t ≤ 1, -0 included and
equal to 0; the listed ranges are invalid; on an invalid t THRESH reports the error and leaves the image unchanged. -/
def Obligations.ValidPatternsDenoteUnitNumbers : Prop :=
  (∀ b : Word, validThreshold b = true ↔ ∃ t : ℚ, thresholdValue b = some t ∧ 0 ≤ t ∧ t ≤ 1) ∧
  (∀ b : Word, validThreshold b = true ↔ b.toNat ≤ 0x3F800000 ∨ b = 0x80000000) ∧
  validThreshold 0x80000000 = true ∧ thresholdValue 0x80000000 = some 0 ∧
  (∀ b : Word, 0x80000001 ≤ b.toNat → b.toNat ≤ 0xFF7FFFFF → validThreshold b = false) ∧
  (∀ b : Word, 0x3F800001 ≤ b.toNat → b.toNat ≤ 0x7F7FFFFF → validThreshold b = false) ∧
  validThreshold 0x7F800000 = false ∧ validThreshold 0xFF800000 = false ∧
  (∀ b : Word, floatExponent b = 255 → floatFraction b ≠ 0 → validThreshold b = false) ∧
  (∀ (s : State) (rnd : Rounding) (pol : Polarity), validThreshold s.thr = false →
    Fails (.thresh rnd pol) s .errParam)

/-- The cut (41_threshold.md R162): the floor of the exact 255·t, or of 255·t + 1/2; it is an 8-bit value, 255 for t = 1
and 0 for t = 0 in both modes, and for t ≥ 0 halves upward is the same as half away from zero. -/
def Obligations.CutIsTheExactFloor : Prop :=
  ∀ (b : Word) (t : ℚ), validThreshold b = true → thresholdValue b = some t →
    (cutOf b .truncate : ℤ) = ⌊255 * t⌋ ∧
    (cutOf b .nearest : ℤ) = ⌊255 * t + 1 / 2⌋ ∧
    (∀ rnd, cutOf b rnd ≤ 255) ∧
    (t = 1 → ∀ rnd, cutOf b rnd = 255) ∧
    (t = 0 → ∀ rnd, cutOf b rnd = 0) ∧
    (cutOf b .nearest : ℤ) = if 255 * t - ⌊255 * t⌋ < 1 / 2 then ⌊255 * t⌋ else ⌈255 * t⌉

/-- Every byte THRESH writes is 0 or 255, and THRESH twice on one buffer with the same t and RND (41_threshold.md R166):
with POL = 1 the second pass changes nothing; with POL = 0 it complements the first when cut < 255; when cut = 255 every
output is 0, or 255, both times. -/
def Obligations.ThreshTwiceInPlace : Prop :=
  ∀ (s t : State) (rnd : Rounding) (pol : Polarity), exec (.thresh rnd pol) s = .next t → t.status.ecode = .ok →
    (∀ j, j < s.usz → t.memRead (s.dst.toNat + j) = 0x00 ∨ t.memRead (s.dst.toNat + j) = 0xFF) ∧
    (s.dst = s.src → ∃ u, exec (.thresh rnd pol) t = .next u ∧ u.status.ecode = .ok ∧
      (pol = .direct → PixmemKept t u ∧
        (cutOf s.thr rnd = 255 → ∀ j, j < s.usz → t.memRead (s.dst.toNat + j) = 0x00)) ∧
      (pol = .inverted → cutOf s.thr rnd < 255 →
        ∀ j, j < s.usz → u.memRead (s.dst.toNat + j) = ~~~ t.memRead (s.dst.toNat + j)) ∧
      (pol = .inverted → cutOf s.thr rnd = 255 →
        ∀ j, j < s.usz → t.memRead (s.dst.toNat + j) = 0xFF ∧ u.memRead (s.dst.toNat + j) = 0xFF))

/-! ### FILTER and the kernel file -/

/-- FILTER completes and convolves (42_filter.md R197, in the form of R198): the kernel is flipped in its rows only, each
input is taken by the boundary mode from the image as it was, and the exact sum is reduced modulo 256; the kernel file
and everything else is unchanged. -/
def Obligations.FilterConvolvesTheImage : Prop :=
  ∀ (s : State) (bmode : BMode), bmode.legal = true → s.kcount = 9 → DimsOk s → RangesOk s s.usz s.usz →
    (s.dst = s.src ∨ ¬ RangesMeet s s.usz s.usz) →
    ∃ t, exec (.filter bmode) s = .next t ∧ Ended s t .ok ∧ EngineKeeps s t ∧ KernelKept s t ∧
      (∀ i j, i < s.h → j < s.w → ((t.memRead (s.dst.toNat + (i * s.w + j))).toNat : ℤ) =
        (∑ dy ∈ ({-1, 0, 1} : Finset ℤ), ∑ dx ∈ ({-1, 0, 1} : Finset ℤ),
          inputPixel s bmode (i + dy) (j + dx) * kernelEntry s (1 - dy) (1 + dx)) % 256) ∧
      PixmemKeptOutside s t s.dst.toNat s.usz

/-- FILTER's errors in their priority (42_filter.md R197, 60_exceptions.md R251 to R255).
The first clause is the model's own reading (log entry 9, DEDUCED): a term with a reserved BMODE, which no legal word
spells, reports ERR_CMD before all others. -/
def Obligations.FilterReportsTheFirstError : Prop :=
  ∀ (s : State) (bmode : BMode),
    (bmode.legal = false → Fails (.filter bmode) s .errCmd) ∧
    (bmode.legal = true → s.kcount ≠ 9 → Fails (.filter bmode) s .errKsize) ∧
    (bmode.legal = true → s.kcount = 9 → ¬ DimsOk s → Fails (.filter bmode) s .errDim) ∧
    (bmode.legal = true → s.kcount = 9 → DimsOk s → ¬ RangesOk s s.usz s.usz → Fails (.filter bmode) s .errRange) ∧
    (bmode.legal = true → s.kcount = 9 → DimsOk s → RangesOk s s.usz s.usz → s.dst ≠ s.src →
      RangesMeet s s.usz s.usz → Fails (.filter bmode) s .errOverlap)

/-- The identity kernel (42_filter.md R199): in either boundary mode FILTER copies every pixel, boundary pixels
included. -/
def Obligations.IdentityKernelCopiesTheImage : Prop :=
  ∀ (s t : State) (bmode : BMode), bmode.legal = true → s.kcount = 9 →
    (∀ i : Fin 9, s.k.get i = if i = 4 then 1 else 0) →
    exec (.filter bmode) s = .next t → t.status.ecode = .ok →
    ∀ i j, i < s.h → j < s.w →
      t.memRead (s.dst.toNat + (i * s.w + j)) = s.memRead (s.src.toNat + (i * s.w + j))

/-- Only the low 8 bits of each coefficient matter (42_filter.md R196). -/
def Obligations.FilterReadsOnlyLowKernelBytes : Prop :=
  ∀ (s t : State) (bmode : BMode) (k' : Vector Word 9),
    (∀ i : Fin 9, (k'.get i).setWidth 8 = (s.k.get i).setWidth 8) → exec (.filter bmode) s = .next t →
    exec (.filter bmode) { s with k := k' } = .next { t with k := k' }

/-- A KDATA push (42_filter.md R191): an accepted write fills K[n] for n = KCOUNT < 9, a later one changes no coefficient,
and KCOUNT counts up to 255.
The agenda is the model's own form of the interleaving (log entry 4). -/
def Obligations.KdataPushFillsAndCounts : Prop :=
  ∀ (s : State) (wa : BusAddr) (v : Word) (rest : List Turn), s.status.busy = false → 4 * wa.toNat = 0x028 →
    s.agenda = .write wa v 0b1111 :: rest →
    ∃ t, step s = .next t ∧
      (∀ i : Fin 9, t.k.get i = if i.val = s.kcount.toNat then v else s.k.get i) ∧
      t.kcount.toNat = min (s.kcount.toNat + 1) 255 ∧
      t = { s with agenda := rest, k := t.k, kcount := t.kcount }

/-- After KCLEAR and any sequence of pushes (42_filter.md R191, R192): the first nine values stand in K0 to K8, 0 where
there are fewer, and KCOUNT is the number of pushes, saturated at 255. -/
def Obligations.PushSequenceFillsTheKernel : Prop :=
  ∀ (s t : State) (vs : List Word), exec .kclear s = .next t →
    (vs.foldl State.pushKernel t).kcount.toNat = min vs.length 255 ∧
    ∀ i : Fin 9, (vs.foldl State.pushKernel t).k.get i = vs.getD i.val 0

/-- The host's `loadk` sequence (30_encoding.md R110, 70_reset_and_hazards.md R285): from an idle state it leaves the nine
values in K0 to K8 and KCOUNT = 9, with no write dropped, however many polls of its `wait` find the engine busy.
The agenda, and `polls`, are the model's own form of the interleaving (log entries 4 and 7). -/
def Obligations.LoadkLoadsTheKernel : Prop :=
  ∀ (s : State) (polls : Nat) (ks : Vector Word 9), s.status.busy = false →
    ∃ t, Host.Core.run core (loadk polls ks).length { s with agenda := loadk polls ks } = .next t ∧
      t.k = ks ∧ t.kcount = 9 ∧ t.status.busy = false ∧ t.status.busywr = s.status.busywr ∧ PixmemKept s t

/-- Kernel-size rejection (42_filter.md R200): after KCLEAR and 8 pushes, or 10 pushes, FILTER reports ERR_KSIZE and
leaves every PIXMEM byte unchanged. -/
def Obligations.WrongKernelSizeIsRejected : Prop :=
  ∀ (s t : State) (vs : List Word) (bmode : BMode), bmode.legal = true → vs.length = 8 ∨ vs.length = 10 →
    exec .kclear s = .next t →
    ∃ u, exec (.filter bmode) (vs.foldl State.pushKernel t) = .next u ∧ u.status.ecode = .errKsize ∧
      u.status.err = true ∧ ∀ a, u.memRead a = s.memRead a

/-- The kernel file persists (42_filter.md R201, 10_state.md R33): a step that changes K0 to K8 or KCOUNT is a reset, an
accepted KDATA write, or the completion of KCLEAR.
The agenda is the model's own form of the interleaving (log entry 4). -/
def Obligations.KernelChangesOnlyByPushClearReset : Prop :=
  ∀ s t : State, step s = .next t → ¬ KernelKept s t →
    (∃ rest, s.agenda = .reset :: rest) ∨
    (s.status.busy = false ∧ ∃ wa v rest, s.agenda = .write wa v 0b1111 :: rest ∧ 4 * wa.toNat = 0x028) ∨
    (s.status.busy = true ∧ decode s.pending = .ok .kclear ∧ t.status.busy = false ∧ t.status.done = true)

/-! ### UNPAD and PAD -/

/-- The padded row length (40_padding.md R131) is the least multiple of 4 that is at least w, and at most w + 3; the
padded buffer has (width + padding) * height bytes and the unpadded one width * height. -/
def Obligations.StrideIsTheLeastMultipleOfFour : Prop :=
  (∀ w : Nat, 0 < w → strideOf w = w + padBytes w ∧ strideOf w % 4 = 0 ∧ w ≤ strideOf w ∧ strideOf w ≤ w + 3 ∧
    ∀ m, m % 4 = 0 → w ≤ m → strideOf w ≤ m) ∧
  ∀ s : State, s.psz = (s.w + padBytes s.w) * s.h ∧ s.usz = s.w * s.h

/-- UNPAD completes and strips (40_padding.md R134): pixel (r, c) of the unpadded destination is pixel (r, c) of the
padded source; everything outside the destination is unchanged. -/
def Obligations.UnpadStripsThePadding : Prop :=
  ∀ s : State, DimsOk s → s.srclen.toNat = s.psz → RangesOk s s.psz s.usz → ¬ RangesMeet s s.psz s.usz →
    ∃ t, exec .unpad s = .next t ∧ Ended s t .ok ∧ EngineKeeps s t ∧ KernelKept s t ∧
      (∀ r c, r < s.h → c < s.w →
        t.memRead (s.dst.toNat + (r * s.w + c)) = s.memRead (s.src.toNat + (r * strideOf s.w + c))) ∧
      PixmemKeptOutside s t s.dst.toNat s.usz

/-- UNPAD's errors in their priority (40_padding.md R134, 60_exceptions.md R251 to R255). -/
def Obligations.UnpadReportsTheFirstError : Prop :=
  ∀ s : State,
    (¬ DimsOk s → Fails .unpad s .errDim) ∧
    (DimsOk s → s.srclen.toNat ≠ s.psz → Fails .unpad s .errPixsize) ∧
    (DimsOk s → s.srclen.toNat = s.psz → ¬ RangesOk s s.psz s.usz → Fails .unpad s .errRange) ∧
    (DimsOk s → s.srclen.toNat = s.psz → RangesOk s s.psz s.usz → RangesMeet s s.psz s.usz →
      Fails .unpad s .errOverlap)

/-- PAD completes and inserts (40_padding.md R136, R137): pixel (r, c) of the padded destination is pixel (r, c) of the
unpadded source; each padding byte is 0x00, or with FILL = 1 the first pixel of the next row (0x00 in the last row);
everything outside the destination is unchanged. -/
def Obligations.PadInsertsThePadding : Prop :=
  ∀ (s : State) (fill : Fill), DimsOk s → s.srclen.toNat = s.usz → RangesOk s s.usz s.psz →
    ¬ RangesMeet s s.usz s.psz →
    ∃ t, exec (.pad fill) s = .next t ∧ Ended s t .ok ∧ EngineKeeps s t ∧ KernelKept s t ∧
      (∀ r c, r < s.h → c < s.w →
        t.memRead (s.dst.toNat + (r * strideOf s.w + c)) = s.memRead (s.src.toNat + (r * s.w + c))) ∧
      (∀ r q, r < s.h → q < padBytes s.w →
        t.memRead (s.dst.toNat + (r * strideOf s.w + s.w + q)) =
          if fill = .next ∧ r < s.h - 1 then s.memRead (s.src.toNat + (r + 1) * s.w) else 0x00) ∧
      PixmemKeptOutside s t s.dst.toNat s.psz

/-- PAD's errors in their priority (40_padding.md R136, 60_exceptions.md R251 to R255). -/
def Obligations.PadReportsTheFirstError : Prop :=
  ∀ (s : State) (fill : Fill),
    (¬ DimsOk s → Fails (.pad fill) s .errDim) ∧
    (DimsOk s → s.srclen.toNat ≠ s.usz → Fails (.pad fill) s .errPixsize) ∧
    (DimsOk s → s.srclen.toNat = s.usz → ¬ RangesOk s s.usz s.psz → Fails (.pad fill) s .errRange) ∧
    (DimsOk s → s.srclen.toNat = s.usz → RangesOk s s.usz s.psz → RangesMeet s s.usz s.psz →
      Fails (.pad fill) s .errOverlap)

/-- The padding round trip (40_padding.md R138): PAD from A to B, then UNPAD from B to C with SRCLEN = PSZ, leaves C
byte-equal to A, for every size and both fills, whenever both commands succeed. -/
def Obligations.PadThenUnpadRestoresTheBuffer : Prop :=
  ∀ (s t u : State) (fill : Fill) (c len : Word),
    exec (.pad fill) s = .next t → t.status.ecode = .ok →
    exec .unpad { t with src := s.dst, dst := c, srclen := len } = .next u → u.status.ecode = .ok →
    ∀ j, j < s.usz → u.memRead (c.toNat + j) = s.memRead (s.src.toNat + j)

/-- The pixel round trip (40_padding.md R139): UNPAD, then PAD, then UNPAD gives the same unpadded pixels as the first
UNPAD, whatever the padding bytes held. -/
def Obligations.UnpadPadUnpadKeepsThePixels : Prop :=
  ∀ (s t u v : State) (fill : Fill) (c d len len' : Word),
    exec .unpad s = .next t → t.status.ecode = .ok →
    exec (.pad fill) { t with src := s.dst, dst := c, srclen := len } = .next u → u.status.ecode = .ok →
    exec .unpad { u with src := c, dst := d, srclen := len' } = .next v → v.status.ecode = .ok →
    ∀ j, j < s.usz → v.memRead (d.toNat + j) = t.memRead (s.dst.toNat + j)

/-! ### The host's accesses -/

/-- The register map as the host reads it (10_state.md R21 to R41): every offset of the register page, the derived
registers with modulo 2^32 arithmetic (R36 to R39). -/
def Obligations.RegisterMapReads : Prop :=
  ∀ s : State,
    s.readData (busAddr 0x000) = 0x42500100 ∧
    s.readData (busAddr 0x004) = (if s.ctrlIE then 1 else 0) ∧
    s.readData (busAddr 0x008) = s.status.word ∧
    s.readData (busAddr 0x00C) = 0 ∧
    s.readData (busAddr 0x010) = s.src ∧
    s.readData (busAddr 0x014) = s.dst ∧
    s.readData (busAddr 0x018) = s.width ∧
    s.readData (busAddr 0x01C) = s.height ∧
    s.readData (busAddr 0x020) = s.srclen ∧
    s.readData (busAddr 0x024) = s.thr ∧
    s.readData (busAddr 0x028) = 0 ∧
    (s.readData (busAddr 0x02C)).toNat = s.kcount.toNat ∧
    s.readData (busAddr 0x030) = (0 - s.width) % 4 ∧
    s.readData (busAddr 0x034) = s.width + (0 - s.width) % 4 ∧
    s.readData (busAddr 0x038) = s.width * s.height ∧
    s.readData (busAddr 0x03C) = (s.width + (0 - s.width) % 4) * s.height ∧
    (∀ i : Fin 9, s.readData (busAddr (0x040 + 4 * i.val)) = s.k.get i) ∧
    s.readData (busAddr 0x064) = BitVec.ofNat 32 s.cfg.memBytes ∧
    (∀ wa : BusAddr, 0x068 ≤ 4 * wa.toNat → 4 * wa.toNat ≤ 0xFFC → s.readData wa = 0)

/-- STATUS as a word (10_state.md R24): each flag and the code at its bits, every reserved bit 0; and the value of each
result code (60_exceptions.md R250). -/
def Obligations.StatusWordLayout : Prop :=
  (∀ (s : State) (n : Nat), (s.readReg .status).getLsbD n =
    (if n = 0 then s.status.busy else if n = 1 then s.status.done else if n = 2 then s.status.err
      else if n = 3 then s.status.busywr else if 8 ≤ n ∧ n ≤ 11 then s.status.ecode.code.getLsbD (n - 8) else false)) ∧
  ECode.ok.code = 0 ∧ ECode.errCmd.code = 1 ∧ ECode.errParam.code = 2 ∧ ECode.errKsize.code = 3 ∧
  ECode.errPixsize.code = 4 ∧ ECode.errDim.code = 5 ∧ ECode.errRange.code = 6 ∧ ECode.errOverlap.code = 7

/-- The derived registers (10_state.md R36 to R39), for every pattern of WIDTH and HEIGHT, modulo 2^32; they have no
storage and follow the current values. -/
def Obligations.DerivedRegistersFollowWidthAndHeight : Prop :=
  ∀ s : State,
    ((s.readData (busAddr 0x030)).toNat : ℤ) = (0 - (s.width.toNat : ℤ)) % 4 ∧
    (s.readData (busAddr 0x034)).toNat = (s.width.toNat + (s.readData (busAddr 0x030)).toNat) % 2 ^ 32 ∧
    (s.readData (busAddr 0x038)).toNat = (s.width.toNat * s.height.toNat) % 2 ^ 32 ∧
    (s.readData (busAddr 0x03C)).toNat = ((s.readData (busAddr 0x034)).toNat * s.height.toNat) % 2 ^ 32

/-- For positive dimensions the derived registers agree with the quantities the commands use (40_padding.md R130, R131;
10_state.md R36 to R39). -/
def Obligations.DerivedRegistersAgreeWithCommands : Prop :=
  ∀ s : State, DimsOk s →
    (s.readReg .padb).toNat = padBytes s.w ∧
    (s.readReg .stride).toNat = strideOf s.w ∧
    (s.readReg .usize).toNat = s.usz % 2 ^ 32 ∧
    (s.readReg .psize).toNat = s.psz % 2 ^ 32

/-- Reads outside the window never stall and have no side effect (10_state.md R45, 20_memory.md R71): whether or not a
command is pending, the read returns the current value, 0 at a reserved offset, and nothing else changes.
The agenda is the model's own form of the interleaving (log entry 4). -/
def Obligations.ReadsOutsideTheWindowNeverStall : Prop :=
  ∀ (s : State) (wa : BusAddr) (rest : List Turn), s.agenda = .read wa :: rest →
    (4 * wa.toNat < windowBase ∨ windowBase + s.cfg.memBytes ≤ 4 * wa.toNat) →
    step s = .next { s with agenda := rest, reads := s.readData wa :: s.reads } ∧
    (0x1000 ≤ 4 * wa.toNat → s.readData wa = 0)

/-- Guarded writes while busy (10_state.md R44): a full-strobe write to CMD, SRC, DST, WIDTH, HEIGHT, SRCLEN, THR or KDATA
while BUSY = 1 is dropped and sets BUSYWR, and nothing else changes.
The agenda is the model's own form of the interleaving (log entry 4). -/
def Obligations.GuardedWritesAreDroppedWhileBusy : Prop :=
  ∀ (s : State) (wa : BusAddr) (v : Word) (rest : List Turn), s.status.busy = true →
    s.agenda = .write wa v 0b1111 :: rest →
    4 * wa.toNat ∈ [0x00C, 0x010, 0x014, 0x018, 0x01C, 0x020, 0x024, 0x028] →
    step s = .next { s with agenda := rest, status := { s.status with busywr := true } }

/-- Register writes with a strobe clear, and full-strobe writes to read-only and reserved offsets, are ignored
(10_state.md R41 to R43, 20_memory.md R71), whether or not a command is pending.
The agenda is the model's own form of the interleaving (log entry 4). -/
def Obligations.IgnoredWritesChangeNothing : Prop :=
  ∀ (s : State) (wa : BusAddr) (v : Word) (strb : BitVec 4) (rest : List Turn),
    s.agenda = .write wa v strb :: rest →
    ((4 * wa.toNat < 0x1000 ∧ strb ≠ 0b1111) ∨ 4 * wa.toNat = 0x000 ∨
      (0x02C ≤ 4 * wa.toNat ∧ 4 * wa.toNat < windowBase) ∨ windowBase + s.cfg.memBytes ≤ 4 * wa.toNat) →
    step s = .next { s with agenda := rest }

/-- Issue (43_control.md R230): a full-strobe write of any word to CMD while BUSY = 0 latches it in PENDING and sets BUSY;
nothing else changes.
The agenda is the model's own form of the interleaving (log entry 4). -/
def Obligations.CmdWriteIssuesTheWord : Prop :=
  ∀ (s : State) (wa : BusAddr) (c : Word) (rest : List Turn), s.status.busy = false → 4 * wa.toNat = 0x00C →
    s.agenda = .write wa c 0b1111 :: rest →
    step s = .next { s with agenda := rest, pending := c, status := { s.status with busy := true } }

/-- A full-strobe write to STATUS (10_state.md R25) clears DONE, ERR and BUSYWR where v has a 1, and nothing else, whether
or not a command is pending.
The agenda is the model's own form of the interleaving (log entry 4). -/
def Obligations.StatusWriteClearsByOnes : Prop :=
  ∀ (s : State) (wa : BusAddr) (v : Word) (rest : List Turn), 4 * wa.toNat = 0x008 →
    s.agenda = .write wa v 0b1111 :: rest →
    step s = .next { s with
      agenda := rest
      status :=
        { busy := s.status.busy, ecode := s.status.ecode
          done := if v.getLsbD 1 then false else s.status.done
          err := if v.getLsbD 2 then false else s.status.err
          busywr := if v.getLsbD 3 then false else s.status.busywr } }

/-- Writes that store (10_state.md R23, R27 to R32): the parameter registers take all 32 bits while BUSY = 0; CTRL.IE takes
bit 0 whether or not a command is pending; nothing else changes.
The agenda is the model's own form of the interleaving (log entry 4). -/
def Obligations.ParameterWritesStore : Prop :=
  ∀ (s : State) (wa : BusAddr) (v : Word) (rest : List Turn), s.agenda = .write wa v 0b1111 :: rest →
    (4 * wa.toNat = 0x004 → step s = .next { s with agenda := rest, ctrlIE := v.getLsbD 0 }) ∧
    (s.status.busy = false →
      (4 * wa.toNat = 0x010 → step s = .next { s with agenda := rest, src := v }) ∧
      (4 * wa.toNat = 0x014 → step s = .next { s with agenda := rest, dst := v }) ∧
      (4 * wa.toNat = 0x018 → step s = .next { s with agenda := rest, width := v }) ∧
      (4 * wa.toNat = 0x01C → step s = .next { s with agenda := rest, height := v }) ∧
      (4 * wa.toNat = 0x020 → step s = .next { s with agenda := rest, srclen := v }) ∧
      (4 * wa.toNat = 0x024 → step s = .next { s with agenda := rest, thr := v }))

/-- HostWrite (20_memory.md R73): while BUSY = 0 a window write stores lane j at byte a + j for each set strobe, and leaves
every other byte and every register as it was.
The agenda is the model's own form of the interleaving (log entry 4). -/
def Obligations.WindowWriteStoresTheStrobedLanes : Prop :=
  ∀ (s : State) (wa : BusAddr) (v : Word) (strb : BitVec 4) (rest : List Turn), s.status.busy = false →
    s.agenda = .write wa v strb :: rest → windowBase ≤ 4 * wa.toNat → 4 * wa.toNat < windowBase + s.cfg.memBytes →
    ∃ t, step s = .next t ∧ t = { s with agenda := rest, pixmem := t.pixmem } ∧
      (∀ j, j < 4 → t.memRead (4 * wa.toNat - windowBase + j) =
        if strb.getLsbD j then v.extractLsb' (8 * j) 8 else s.memRead (4 * wa.toNat - windowBase + j)) ∧
      PixmemKeptOutside s t (4 * wa.toNat - windowBase) 4

/-- HostRead (20_memory.md R73): while BUSY = 0 a window read returns the four bytes from a on, the lowest address in the
lowest lane, and changes nothing.
The agenda is the model's own form of the interleaving (log entry 4). -/
def Obligations.WindowReadReturnsLittleEndianWord : Prop :=
  ∀ (s : State) (wa : BusAddr) (rest : List Turn), s.status.busy = false → s.agenda = .read wa :: rest →
    windowBase ≤ 4 * wa.toNat → 4 * wa.toNat < windowBase + s.cfg.memBytes →
    ∃ d : Word, step s = .next { s with agenda := rest, reads := d :: s.reads } ∧
      ∀ j, j < 4 → d.extractLsb' (8 * j) 8 = s.memRead (4 * wa.toNat - windowBase + j)

/-- The window stall (20_memory.md R76): a window access while BUSY = 1 waits; the pending command completes with the
access still to come, and the next step performs it on PIXMEM as the command left it.
The agenda is the model's own form of the interleaving (log entry 4). -/
def Obligations.WindowAccessWaitsForCompletion : Prop :=
  ∀ (s : State) (wa : BusAddr) (rest : List Turn), s.status.busy = true → windowBase ≤ 4 * wa.toNat →
    4 * wa.toNat < windowBase + s.cfg.memBytes →
    (s.agenda = .read wa :: rest → ∃ t, step s = .next t ∧ s.completePending = .next t ∧ t.agenda = s.agenda ∧
      t.status.busy = false ∧ step t = .next { t with agenda := rest, reads := t.readData wa :: t.reads }) ∧
    (∀ v strb, s.agenda = .write wa v strb :: rest → ∃ t, step s = .next t ∧ s.completePending = .next t ∧
      t.agenda = s.agenda ∧ t.status.busy = false ∧
      step t = .next ({ t with agenda := rest }.hostWrite wa v strb))

/-! ### Reset, interrupt and whole-machine rules -/

/-- The registers after reset (10_state.md R49), for every configuration; no byte of PIXMEM has been written
(20_memory.md R79), and the IRQ line is 0.
That State.reset has the suggested MEM_BYTES is the model's choice (log entry 1), and so is the list of the written bytes,
empty after reset (log entry 3). -/
def Obligations.ResetStateHasTheListedValues : Prop :=
  ∀ cfg : Config, cfg.Legal →
    let s := State.powerOn cfg
    (State.reset = State.powerOn Config.suggested) ∧
    s.readData (busAddr 0x000) = 0x42500100 ∧ s.readData (busAddr 0x004) = 0 ∧ s.readData (busAddr 0x008) = 0 ∧
    s.src = 0 ∧ s.dst = 0 ∧ s.width = 0 ∧ s.height = 0 ∧ s.srclen = 0 ∧ s.thr = 0 ∧
    (∀ i : Fin 9, s.k.get i = 0) ∧ s.kcount = 0 ∧ s.status.busy = false ∧
    s.readData (busAddr 0x030) = 0 ∧ s.readData (busAddr 0x034) = 0 ∧ s.readData (busAddr 0x038) = 0 ∧
    s.readData (busAddr 0x03C) = 0 ∧ (s.readData (busAddr 0x064)).toNat = cfg.memBytes ∧
    s.irq = false ∧ ∀ a, Memory.lookup s.pixmem a = none

/-- The reset input (70_reset_and_hazards.md R280, R281): whatever was pending is discarded with no completion, every
register has its reset value, and every byte of PIXMEM is a fresh draw; the configuration stays.
The model's own choices are that reset is one turn that keeps the rest of the agenda and the recorded reads (log entries 4,
5 and 8), and that the fresh draws are those numbered by the reset counter (log entry 3). -/
def Obligations.ResetDiscardsThePendingCommand : Prop :=
  ∀ (s : State) (rest : List Turn), s.agenda = .reset :: rest →
    ∃ t, step s = .next t ∧ t.status = Status.reset ∧ t.irq = false ∧ t.ctrlIE = false ∧ t.src = 0 ∧ t.dst = 0 ∧
      t.width = 0 ∧ t.height = 0 ∧ t.srclen = 0 ∧ t.thr = 0 ∧ (∀ i : Fin 9, t.k.get i = 0) ∧ t.kcount = 0 ∧
      t.cfg = s.cfg ∧ t.agenda = rest ∧ t.reads = s.reads ∧ ∀ a, t.memRead a = Config.freePix (s.resets + 1) a

/-- The IRQ output (60_exceptions.md R260, R261): IE and DONE as the host reads them; every completion, with or without an
error, leaves it equal to IE; writing IE asserts or deasserts it at once without touching DONE; clearing DONE deasserts
it; at reset it is 0. -/
def Obligations.IrqIsEnableAndDone : Prop :=
  (∀ s : State, s.irq = ((s.readReg .ctrl).getLsbD 0 && (s.readReg .status).getLsbD 1)) ∧
  (∀ s t : State, s.completePending = .next t → t.irq = s.ctrlIE) ∧
  (∀ (s : State) (v : Word), (s.writeReg .ctrl v 0b1111).irq = (v.getLsbD 0 && s.status.done) ∧
    (s.writeReg .ctrl v 0b1111).status = s.status) ∧
  (∀ (s : State) (v : Word), v.getLsbD 1 = true → (s.writeReg .status v 0b1111).irq = false) ∧
  (∀ cfg : Config, (State.powerOn cfg).irq = false)

/-- Each status flag changes only by its cause (10_state.md R46): a completion sets DONE, ERR and ECODE and clears BUSY,
issue sets BUSY, a dropped guarded write sets BUSYWR, and a STATUS write or reset clears DONE, ERR and BUSYWR.
The agenda is the model's own form of the interleaving (log entry 4). -/
def Obligations.FlagsChangeOnlyByTheirCauses : Prop :=
  ∀ s t : State, step s = .next t →
    (s.status.done = false → t.status.done = true → s.status.busy = true ∧ t.status.busy = false) ∧
    (s.status.err = false → t.status.err = true →
      s.status.busy = true ∧ t.status.busy = false ∧ t.status.ecode ≠ .ok) ∧
    (t.status.ecode ≠ s.status.ecode →
      (s.status.busy = true ∧ t.status.busy = false ∧ t.status.done = true) ∨ ∃ rest, s.agenda = .reset :: rest) ∧
    (s.status.busy = false → t.status.busy = true →
      ∃ wa c rest, s.agenda = .write wa c 0b1111 :: rest ∧ 4 * wa.toNat = 0x00C ∧ t.pending = c) ∧
    (s.status.busy = true → t.status.busy = false →
      t.status.done = true ∨ ∃ rest, s.agenda = .reset :: rest) ∧
    (s.status.busywr = false → t.status.busywr = true → s.status.busy = true ∧
      ∃ wa v rest, s.agenda = .write wa v 0b1111 :: rest ∧
        4 * wa.toNat ∈ [0x00C, 0x010, 0x014, 0x018, 0x01C, 0x020, 0x024, 0x028]) ∧
    ((s.status.done = true ∧ t.status.done = false ∨ s.status.err = true ∧ t.status.err = false ∨
        s.status.busywr = true ∧ t.status.busywr = false) →
      (∃ rest, s.agenda = .reset :: rest) ∨
      ∃ wa v rest, s.agenda = .write wa v 0b1111 :: rest ∧ 4 * wa.toNat = 0x008)

/-- No command's result depends on the flags (10_state.md R46, 60_exceptions.md R257): with any other STATUS the command
ends with the same code and the same registers and PIXMEM. -/
def Obligations.CommandsIgnoreTheFlags : Prop :=
  ∀ (i : Instr) (s t : State) (st : Status), exec i s = .next t →
    ∃ t', exec i { s with status := st } = .next t' ∧ t'.status.ecode = t.status.ecode ∧
      t' = { t with status := t'.status }

/-- Every register a command reads holds at its completion the value it held at its issue (10_state.md R44), and so does
PIXMEM (20_memory.md R76): no step that leaves the command pending changes them.
The agenda is the model's own form of the interleaving (log entry 4). -/
def Obligations.OperandsHoldWhileBusy : Prop :=
  ∀ s t : State, s.status.busy = true → step s = .next t → t.status.busy = true →
    t.pending = s.pending ∧ t.src = s.src ∧ t.dst = s.dst ∧ t.width = s.width ∧ t.height = s.height ∧
    t.srclen = s.srclen ∧ t.thr = s.thr ∧ t.k = s.k ∧ t.kcount = s.kcount ∧ t.pixmem = s.pixmem ∧
    t.resets = s.resets ∧ t.cfg = s.cfg

/-- Nothing reads PENDING while BUSY = 0 (10_state.md R47): with any other word in it the step ends in the same state but
for PENDING, and in the same state altogether once a command is pending.
The agenda is the model's own form of the interleaving (log entry 4). -/
def Obligations.IdlePendingIsNeverRead : Prop :=
  ∀ (s t : State) (c : Word), s.status.busy = false → step s = .next t →
    ∃ t', step { s with pending := c } = .next t' ∧ t' = { t with pending := t'.pending } ∧
      (t.status.busy = true → t' = t)

/-- A successful command reads only its source range (20_memory.md R81): if another PIXMEM reads the same there, the command
ends with the same status and the same destination bytes. -/
def Obligations.CommandsReadOnlyTheSourceRange : Prop :=
  ∀ (i : Instr) (s t : State) (m : Memory) (srcBytes dstBytes : Nat),
    (srcBytes, dstBytes) = (match i with
      | .nop => (0, 0) | .kclear => (0, 0) | .thresh _ _ => (s.usz, s.usz) | .filter _ => (s.usz, s.usz)
      | .unpad => (s.psz, s.usz) | .pad _ => (s.usz, s.psz)) →
    (∀ a, s.src.toNat ≤ a → a < s.src.toNat + srcBytes → ({ s with pixmem := m } : State).memRead a = s.memRead a) →
    exec i s = .next t →
    ∃ t', exec i { s with pixmem := m } = .next t' ∧ t' = { t with pixmem := t'.pixmem } ∧
      (t.status.ecode = .ok → ∀ j, j < dstBytes → t'.memRead (s.dst.toNat + j) = t.memRead (s.dst.toNat + j))

/-- Progress (70_reset_and_hazards.md R289): a pending command completes, unless reset intervenes, within one step more
than the turns still on the agenda, whatever they are.
That the agenda is finite is the model's own form of the fairness assumption (log entry 4). -/
def Obligations.PendingCommandCompletes : Prop :=
  ∀ s : State, s.status.busy = true → Turn.reset ∉ s.agenda →
    ∃ n t, n ≤ s.agenda.length + 1 ∧ Host.Core.run core n s = .next t ∧
      t.status.busy = false ∧ t.status.done = true

/-- A write to any of the eight guarded registers that races a completion (10_state.md R44, 70_reset_and_hazards.md R284):
both orders are admitted, with the same completion `c` of the pending command.
If the completion comes first the write is accepted: the parameter registers store, CMD issues, KDATA pushes.
If the write comes first it is dropped, and BUSYWR = 1 is all it leaves.
The agenda is the model's own form of the interleaving (log entry 4). -/
def Obligations.GuardedWriteRaceAdmitsBothOrders : Prop :=
  ∀ (s : State) (v : Word), s.status.busy = true →
    ∃ c : State, ({ s with agenda := [] } : State).completePending = .next c ∧ c.status.busy = false ∧
      c.status.done = true ∧ EngineKeeps { s with agenda := [] } c ∧
      ∀ p ∈ ([(.cmd, { c with pending := v, status := { c.status with busy := true } }), (.src, { c with src := v }),
          (.dst, { c with dst := v }), (.width, { c with width := v }), (.height, { c with height := v }),
          (.srclen, { c with srclen := v }), (.thr, { c with thr := v }), (.kdata, c.pushKernel v)] :
          List (Reg × State)),
        Host.Core.run core 2 { s with agenda := [.engine, wr p.1 v] } = .next p.2 ∧
        Host.Core.run core 2 { s with agenda := [wr p.1 v, .engine] } =
          .next { c with status := { c.status with busywr := true } }
end

