-- ==== Sys2Proof/Laws/State.lean ====
section
/-! SUPPORT. One lemma per field per update of the state, true by rfl. -/

namespace Sys2Proof.Machine

/-! ### The updates of STATUS -/

@[simp] theorem Status.issued_busy (st : Status) : st.issued.busy = true := rfl
@[simp] theorem Status.issued_done (st : Status) : st.issued.done = st.done := rfl
@[simp] theorem Status.issued_err (st : Status) : st.issued.err = st.err := rfl
@[simp] theorem Status.issued_busywr (st : Status) : st.issued.busywr = st.busywr := rfl
@[simp] theorem Status.issued_ecode (st : Status) : st.issued.ecode = st.ecode := rfl
@[simp] theorem Status.completed_busy (st : Status) : st.completed.busy = false := rfl
@[simp] theorem Status.completed_done (st : Status) : st.completed.done = true := rfl
@[simp] theorem Status.completed_err (st : Status) : st.completed.err = st.err := rfl
@[simp] theorem Status.completed_busywr (st : Status) : st.completed.busywr = st.busywr := rfl
@[simp] theorem Status.completed_ecode (st : Status) : st.completed.ecode = .ok := rfl
@[simp] theorem Status.raised_busy (st : Status) (e : ECode) : (st.raised e).busy = false := rfl
@[simp] theorem Status.raised_done (st : Status) (e : ECode) : (st.raised e).done = true := rfl
@[simp] theorem Status.raised_err (st : Status) (e : ECode) : (st.raised e).err = true := rfl
@[simp] theorem Status.raised_busywr (st : Status) (e : ECode) : (st.raised e).busywr = st.busywr := rfl
@[simp] theorem Status.raised_ecode (st : Status) (e : ECode) : (st.raised e).ecode = e := rfl
@[simp] theorem Status.writeDropped_busy (st : Status) : st.writeDropped.busy = st.busy := rfl
@[simp] theorem Status.writeDropped_done (st : Status) : st.writeDropped.done = st.done := rfl
@[simp] theorem Status.writeDropped_err (st : Status) : st.writeDropped.err = st.err := rfl
@[simp] theorem Status.writeDropped_busywr (st : Status) : st.writeDropped.busywr = true := rfl
@[simp] theorem Status.writeDropped_ecode (st : Status) : st.writeDropped.ecode = st.ecode := rfl
@[simp] theorem Status.cleared_busy (st : Status) (v : Word) : (st.cleared v).busy = st.busy := rfl
@[simp] theorem Status.cleared_done (st : Status) (v : Word) : (st.cleared v).done = (st.done && !v.getLsbD 1) := rfl
@[simp] theorem Status.cleared_err (st : Status) (v : Word) : (st.cleared v).err = (st.err && !v.getLsbD 2) := rfl
@[simp] theorem Status.cleared_busywr (st : Status) (v : Word) : (st.cleared v).busywr = (st.busywr && !v.getLsbD 3) := rfl
@[simp] theorem Status.cleared_ecode (st : Status) (v : Word) : (st.cleared v).ecode = st.ecode := rfl

/-! ### State.complete -/

@[simp] theorem State.complete_cfg (s : State) : s.complete.cfg = s.cfg := rfl
@[simp] theorem State.complete_ctrlIE (s : State) : s.complete.ctrlIE = s.ctrlIE := rfl
@[simp] theorem State.complete_status (s : State) : s.complete.status = s.status.completed := rfl
@[simp] theorem State.complete_src (s : State) : s.complete.src = s.src := rfl
@[simp] theorem State.complete_dst (s : State) : s.complete.dst = s.dst := rfl
@[simp] theorem State.complete_width (s : State) : s.complete.width = s.width := rfl
@[simp] theorem State.complete_height (s : State) : s.complete.height = s.height := rfl
@[simp] theorem State.complete_srclen (s : State) : s.complete.srclen = s.srclen := rfl
@[simp] theorem State.complete_thr (s : State) : s.complete.thr = s.thr := rfl
@[simp] theorem State.complete_k (s : State) : s.complete.k = s.k := rfl
@[simp] theorem State.complete_kcount (s : State) : s.complete.kcount = s.kcount := rfl
@[simp] theorem State.complete_pending (s : State) : s.complete.pending = s.pending := rfl
@[simp] theorem State.complete_pixmem (s : State) : s.complete.pixmem = s.pixmem := rfl
@[simp] theorem State.complete_resets (s : State) : s.complete.resets = s.resets := rfl
@[simp] theorem State.complete_agenda (s : State) : s.complete.agenda = s.agenda := rfl
@[simp] theorem State.complete_reads (s : State) : s.complete.reads = s.reads := rfl
@[simp] theorem State.complete_memRead (s : State) (x : Nat) : s.complete.memRead x = s.memRead x := rfl

/-! ### State.raise -/

@[simp] theorem State.raise_cfg (s : State) (e : ECode) : (s.raise e).cfg = s.cfg := rfl
@[simp] theorem State.raise_ctrlIE (s : State) (e : ECode) : (s.raise e).ctrlIE = s.ctrlIE := rfl
@[simp] theorem State.raise_status (s : State) (e : ECode) : (s.raise e).status = s.status.raised e := rfl
@[simp] theorem State.raise_src (s : State) (e : ECode) : (s.raise e).src = s.src := rfl
@[simp] theorem State.raise_dst (s : State) (e : ECode) : (s.raise e).dst = s.dst := rfl
@[simp] theorem State.raise_width (s : State) (e : ECode) : (s.raise e).width = s.width := rfl
@[simp] theorem State.raise_height (s : State) (e : ECode) : (s.raise e).height = s.height := rfl
@[simp] theorem State.raise_srclen (s : State) (e : ECode) : (s.raise e).srclen = s.srclen := rfl
@[simp] theorem State.raise_thr (s : State) (e : ECode) : (s.raise e).thr = s.thr := rfl
@[simp] theorem State.raise_k (s : State) (e : ECode) : (s.raise e).k = s.k := rfl
@[simp] theorem State.raise_kcount (s : State) (e : ECode) : (s.raise e).kcount = s.kcount := rfl
@[simp] theorem State.raise_pending (s : State) (e : ECode) : (s.raise e).pending = s.pending := rfl
@[simp] theorem State.raise_pixmem (s : State) (e : ECode) : (s.raise e).pixmem = s.pixmem := rfl
@[simp] theorem State.raise_resets (s : State) (e : ECode) : (s.raise e).resets = s.resets := rfl
@[simp] theorem State.raise_agenda (s : State) (e : ECode) : (s.raise e).agenda = s.agenda := rfl
@[simp] theorem State.raise_reads (s : State) (e : ECode) : (s.raise e).reads = s.reads := rfl
@[simp] theorem State.raise_memRead (s : State) (e : ECode) (x : Nat) : (s.raise e).memRead x = s.memRead x := rfl

/-! ### State.issue -/

@[simp] theorem State.issue_cfg (s : State) (c : Word) : (s.issue c).cfg = s.cfg := rfl
@[simp] theorem State.issue_ctrlIE (s : State) (c : Word) : (s.issue c).ctrlIE = s.ctrlIE := rfl
@[simp] theorem State.issue_status (s : State) (c : Word) : (s.issue c).status = s.status.issued := rfl
@[simp] theorem State.issue_src (s : State) (c : Word) : (s.issue c).src = s.src := rfl
@[simp] theorem State.issue_dst (s : State) (c : Word) : (s.issue c).dst = s.dst := rfl
@[simp] theorem State.issue_width (s : State) (c : Word) : (s.issue c).width = s.width := rfl
@[simp] theorem State.issue_height (s : State) (c : Word) : (s.issue c).height = s.height := rfl
@[simp] theorem State.issue_srclen (s : State) (c : Word) : (s.issue c).srclen = s.srclen := rfl
@[simp] theorem State.issue_thr (s : State) (c : Word) : (s.issue c).thr = s.thr := rfl
@[simp] theorem State.issue_k (s : State) (c : Word) : (s.issue c).k = s.k := rfl
@[simp] theorem State.issue_kcount (s : State) (c : Word) : (s.issue c).kcount = s.kcount := rfl
@[simp] theorem State.issue_pending (s : State) (c : Word) : (s.issue c).pending = c := rfl
@[simp] theorem State.issue_pixmem (s : State) (c : Word) : (s.issue c).pixmem = s.pixmem := rfl
@[simp] theorem State.issue_resets (s : State) (c : Word) : (s.issue c).resets = s.resets := rfl
@[simp] theorem State.issue_agenda (s : State) (c : Word) : (s.issue c).agenda = s.agenda := rfl
@[simp] theorem State.issue_reads (s : State) (c : Word) : (s.issue c).reads = s.reads := rfl
@[simp] theorem State.issue_memRead (s : State) (c : Word) (x : Nat) : (s.issue c).memRead x = s.memRead x := rfl

/-! ### State.storeRange -/

@[simp] theorem State.storeRange_cfg (s : State) (b n : Nat) (f : Nat → Byte) : (s.storeRange b n f).cfg = s.cfg := rfl
@[simp] theorem State.storeRange_ctrlIE (s : State) (b n : Nat) (f : Nat → Byte) : (s.storeRange b n f).ctrlIE = s.ctrlIE := rfl
@[simp] theorem State.storeRange_status (s : State) (b n : Nat) (f : Nat → Byte) : (s.storeRange b n f).status = s.status := rfl
@[simp] theorem State.storeRange_src (s : State) (b n : Nat) (f : Nat → Byte) : (s.storeRange b n f).src = s.src := rfl
@[simp] theorem State.storeRange_dst (s : State) (b n : Nat) (f : Nat → Byte) : (s.storeRange b n f).dst = s.dst := rfl
@[simp] theorem State.storeRange_width (s : State) (b n : Nat) (f : Nat → Byte) : (s.storeRange b n f).width = s.width := rfl
@[simp] theorem State.storeRange_height (s : State) (b n : Nat) (f : Nat → Byte) : (s.storeRange b n f).height = s.height := rfl
@[simp] theorem State.storeRange_srclen (s : State) (b n : Nat) (f : Nat → Byte) : (s.storeRange b n f).srclen = s.srclen := rfl
@[simp] theorem State.storeRange_thr (s : State) (b n : Nat) (f : Nat → Byte) : (s.storeRange b n f).thr = s.thr := rfl
@[simp] theorem State.storeRange_k (s : State) (b n : Nat) (f : Nat → Byte) : (s.storeRange b n f).k = s.k := rfl
@[simp] theorem State.storeRange_kcount (s : State) (b n : Nat) (f : Nat → Byte) : (s.storeRange b n f).kcount = s.kcount := rfl
@[simp] theorem State.storeRange_pending (s : State) (b n : Nat) (f : Nat → Byte) : (s.storeRange b n f).pending = s.pending := rfl
@[simp] theorem State.storeRange_pixmem (s : State) (b n : Nat) (f : Nat → Byte) : (s.storeRange b n f).pixmem = Memory.storeBlock s.pixmem b n f := rfl
@[simp] theorem State.storeRange_resets (s : State) (b n : Nat) (f : Nat → Byte) : (s.storeRange b n f).resets = s.resets := rfl
@[simp] theorem State.storeRange_agenda (s : State) (b n : Nat) (f : Nat → Byte) : (s.storeRange b n f).agenda = s.agenda := rfl
@[simp] theorem State.storeRange_reads (s : State) (b n : Nat) (f : Nat → Byte) : (s.storeRange b n f).reads = s.reads := rfl

/-! ### State.pushKernel -/

@[simp] theorem State.pushKernel_cfg (s : State) (v : Word) : (s.pushKernel v).cfg = s.cfg := rfl
@[simp] theorem State.pushKernel_ctrlIE (s : State) (v : Word) : (s.pushKernel v).ctrlIE = s.ctrlIE := rfl
@[simp] theorem State.pushKernel_status (s : State) (v : Word) : (s.pushKernel v).status = s.status := rfl
@[simp] theorem State.pushKernel_src (s : State) (v : Word) : (s.pushKernel v).src = s.src := rfl
@[simp] theorem State.pushKernel_dst (s : State) (v : Word) : (s.pushKernel v).dst = s.dst := rfl
@[simp] theorem State.pushKernel_width (s : State) (v : Word) : (s.pushKernel v).width = s.width := rfl
@[simp] theorem State.pushKernel_height (s : State) (v : Word) : (s.pushKernel v).height = s.height := rfl
@[simp] theorem State.pushKernel_srclen (s : State) (v : Word) : (s.pushKernel v).srclen = s.srclen := rfl
@[simp] theorem State.pushKernel_thr (s : State) (v : Word) : (s.pushKernel v).thr = s.thr := rfl
@[simp] theorem State.pushKernel_k (s : State) (v : Word) : (s.pushKernel v).k = s.k.setIfInBounds s.kcount.toNat v := rfl
@[simp] theorem State.pushKernel_kcount (s : State) (v : Word) : (s.pushKernel v).kcount = BitVec.ofNat 8 (min (s.kcount.toNat + 1) 255) := rfl
@[simp] theorem State.pushKernel_pending (s : State) (v : Word) : (s.pushKernel v).pending = s.pending := rfl
@[simp] theorem State.pushKernel_pixmem (s : State) (v : Word) : (s.pushKernel v).pixmem = s.pixmem := rfl
@[simp] theorem State.pushKernel_resets (s : State) (v : Word) : (s.pushKernel v).resets = s.resets := rfl
@[simp] theorem State.pushKernel_agenda (s : State) (v : Word) : (s.pushKernel v).agenda = s.agenda := rfl
@[simp] theorem State.pushKernel_reads (s : State) (v : Word) : (s.pushKernel v).reads = s.reads := rfl
@[simp] theorem State.pushKernel_memRead (s : State) (v : Word) (x : Nat) : (s.pushKernel v).memRead x = s.memRead x := rfl

/-! ### State.clearKernel -/

@[simp] theorem State.clearKernel_cfg (s : State) : s.clearKernel.cfg = s.cfg := rfl
@[simp] theorem State.clearKernel_ctrlIE (s : State) : s.clearKernel.ctrlIE = s.ctrlIE := rfl
@[simp] theorem State.clearKernel_status (s : State) : s.clearKernel.status = s.status := rfl
@[simp] theorem State.clearKernel_src (s : State) : s.clearKernel.src = s.src := rfl
@[simp] theorem State.clearKernel_dst (s : State) : s.clearKernel.dst = s.dst := rfl
@[simp] theorem State.clearKernel_width (s : State) : s.clearKernel.width = s.width := rfl
@[simp] theorem State.clearKernel_height (s : State) : s.clearKernel.height = s.height := rfl
@[simp] theorem State.clearKernel_srclen (s : State) : s.clearKernel.srclen = s.srclen := rfl
@[simp] theorem State.clearKernel_thr (s : State) : s.clearKernel.thr = s.thr := rfl
@[simp] theorem State.clearKernel_k (s : State) : s.clearKernel.k = Vector.replicate 9 0 := rfl
@[simp] theorem State.clearKernel_kcount (s : State) : s.clearKernel.kcount = 0 := rfl
@[simp] theorem State.clearKernel_pending (s : State) : s.clearKernel.pending = s.pending := rfl
@[simp] theorem State.clearKernel_pixmem (s : State) : s.clearKernel.pixmem = s.pixmem := rfl
@[simp] theorem State.clearKernel_resets (s : State) : s.clearKernel.resets = s.resets := rfl
@[simp] theorem State.clearKernel_agenda (s : State) : s.clearKernel.agenda = s.agenda := rfl
@[simp] theorem State.clearKernel_reads (s : State) : s.clearKernel.reads = s.reads := rfl
@[simp] theorem State.clearKernel_memRead (s : State) (x : Nat) : s.clearKernel.memRead x = s.memRead x := rfl

/-! ### State.applyReset -/

@[simp] theorem State.applyReset_cfg (s : State) : s.applyReset.cfg = s.cfg := rfl
@[simp] theorem State.applyReset_ctrlIE (s : State) : s.applyReset.ctrlIE = false := rfl
@[simp] theorem State.applyReset_status (s : State) : s.applyReset.status = Status.reset := rfl
@[simp] theorem State.applyReset_src (s : State) : s.applyReset.src = 0 := rfl
@[simp] theorem State.applyReset_dst (s : State) : s.applyReset.dst = 0 := rfl
@[simp] theorem State.applyReset_width (s : State) : s.applyReset.width = 0 := rfl
@[simp] theorem State.applyReset_height (s : State) : s.applyReset.height = 0 := rfl
@[simp] theorem State.applyReset_srclen (s : State) : s.applyReset.srclen = 0 := rfl
@[simp] theorem State.applyReset_thr (s : State) : s.applyReset.thr = 0 := rfl
@[simp] theorem State.applyReset_k (s : State) : s.applyReset.k = Vector.replicate 9 0 := rfl
@[simp] theorem State.applyReset_kcount (s : State) : s.applyReset.kcount = 0 := rfl
@[simp] theorem State.applyReset_pending (s : State) : s.applyReset.pending = 0 := rfl
@[simp] theorem State.applyReset_pixmem (s : State) : s.applyReset.pixmem = [] := rfl
@[simp] theorem State.applyReset_resets (s : State) : s.applyReset.resets = s.resets + 1 := rfl
@[simp] theorem State.applyReset_agenda (s : State) : s.applyReset.agenda = s.agenda := rfl
@[simp] theorem State.applyReset_reads (s : State) : s.applyReset.reads = s.reads := rfl

/-! ### State.hostRead -/

@[simp] theorem State.hostRead_cfg (s : State) (wa : BusAddr) : (s.hostRead wa).cfg = s.cfg := rfl
@[simp] theorem State.hostRead_ctrlIE (s : State) (wa : BusAddr) : (s.hostRead wa).ctrlIE = s.ctrlIE := rfl
@[simp] theorem State.hostRead_status (s : State) (wa : BusAddr) : (s.hostRead wa).status = s.status := rfl
@[simp] theorem State.hostRead_src (s : State) (wa : BusAddr) : (s.hostRead wa).src = s.src := rfl
@[simp] theorem State.hostRead_dst (s : State) (wa : BusAddr) : (s.hostRead wa).dst = s.dst := rfl
@[simp] theorem State.hostRead_width (s : State) (wa : BusAddr) : (s.hostRead wa).width = s.width := rfl
@[simp] theorem State.hostRead_height (s : State) (wa : BusAddr) : (s.hostRead wa).height = s.height := rfl
@[simp] theorem State.hostRead_srclen (s : State) (wa : BusAddr) : (s.hostRead wa).srclen = s.srclen := rfl
@[simp] theorem State.hostRead_thr (s : State) (wa : BusAddr) : (s.hostRead wa).thr = s.thr := rfl
@[simp] theorem State.hostRead_k (s : State) (wa : BusAddr) : (s.hostRead wa).k = s.k := rfl
@[simp] theorem State.hostRead_kcount (s : State) (wa : BusAddr) : (s.hostRead wa).kcount = s.kcount := rfl
@[simp] theorem State.hostRead_pending (s : State) (wa : BusAddr) : (s.hostRead wa).pending = s.pending := rfl
@[simp] theorem State.hostRead_pixmem (s : State) (wa : BusAddr) : (s.hostRead wa).pixmem = s.pixmem := rfl
@[simp] theorem State.hostRead_resets (s : State) (wa : BusAddr) : (s.hostRead wa).resets = s.resets := rfl
@[simp] theorem State.hostRead_agenda (s : State) (wa : BusAddr) : (s.hostRead wa).agenda = s.agenda := rfl
@[simp] theorem State.hostRead_reads (s : State) (wa : BusAddr) : (s.hostRead wa).reads = s.readData wa :: s.reads := rfl
@[simp] theorem State.hostRead_memRead (s : State) (wa : BusAddr) (x : Nat) : (s.hostRead wa).memRead x = s.memRead x := rfl

/-! ### Taking a turn off the agenda -/

@[simp] theorem State.agenda_memRead (s : State) (l : List Turn) (x : Nat) :
    ({ s with agenda := l } : State).memRead x = s.memRead x := rfl

end Sys2Proof.Machine
end

