-- ==== Sys2Proof/Laws/Memory.lean ====
section
/-! SUPPORT. The laws of PIXMEM: a read after a write, and that every operation keeps the canonical form and its bounds. -/

namespace Sys2Proof.Machine

namespace Memory

theorem lookup_append (m n : Memory) (a : Nat) : lookup (m ++ n) a = (lookup m a).or (lookup n a) := by
  induction m with
  | nil => simp [lookup]
  | cons c m ih => by_cases h : c.1 = a <;> simp [lookup, h, ih]

/-- Keeping only the entries whose address satisfies `p`. -/
theorem lookup_filter (p : Nat → Bool) (m : Memory) (a : Nat) :
    lookup (m.filter fun c => p c.1) a = if p a then lookup m a else none := by
  induction m with
  | nil => simp [lookup]
  | cons c m ih =>
    by_cases hp : p c.1 <;> by_cases hc : c.1 = a
    · subst hc; simp [lookup, hp]
    · simp [lookup, hp, hc, ih]
    · subst hc; simp [hp, ih]
    · simp [lookup, hp, hc, ih]

/-- A run of consecutive bytes holds `f j` at `base + j`. -/
theorem lookup_block (base n : Nat) (f : Nat → Byte) (a : Nat) :
    lookup ((List.range n).map fun j => (base + j, f j)) a =
      if base ≤ a ∧ a < base + n then some (f (a - base)) else none := by
  induction n with
  | zero => simp only [List.range_zero, List.map_nil, lookup]; rw [if_neg (by omega)]
  | succ n ih =>
    rw [List.range_succ, List.map_append, lookup_append, ih]
    by_cases h : base ≤ a ∧ a < base + n
    · rw [if_pos h, if_pos (by omega)]; rfl
    · rw [if_neg h]
      by_cases ha : base + n = a
      · subst ha; simp [lookup]
      · rw [if_neg (by omega)]; simp [lookup, ha]

/-- A read after a block write: the written byte inside the block, the old byte outside it. -/
theorem lookup_storeBlock (m : Memory) (base n : Nat) (f : Nat → Byte) (a : Nat) :
    lookup (storeBlock m base n f) a =
      if base ≤ a ∧ a < base + n then some (f (a - base)) else lookup m a := by
  rw [storeBlock, lookup_append, lookup_append, lookup_block,
    lookup_filter (fun x => decide (x < base)), lookup_filter (fun x => decide (base + n ≤ x))]
  by_cases h : base ≤ a ∧ a < base + n
  · have hl : ¬ a < base := by omega
    simp [h, hl]
  · by_cases hl : a < base
    · have hr : ¬ base + n ≤ a := by omega
      simp [h, hl, hr]
    · have hr : base + n ≤ a := by omega
      simp [h, hl, hr]

/-- Every entry after a block write is an old one, or one of the block. -/
theorem mem_storeBlock {m : Memory} {base n : Nat} {f : Nat → Byte} {c : Host.Cell}
    (h : c ∈ storeBlock m base n f) : c ∈ m ∨ (base ≤ c.1 ∧ c.1 < base + n) := by
  simp only [storeBlock, List.mem_append, List.mem_filter, List.mem_map, List.mem_range] at h
  obtain (⟨h, -⟩ | ⟨j, hj, rfl⟩) | ⟨h, -⟩ := h
  · exact .inl h
  · exact .inr ⟨by simp, by simpa using hj⟩
  · exact .inl h

/-- A block write keeps the canonical form. -/
theorem wf_storeBlock {m : Memory} (h : wf m) (base n : Nat) (f : Nat → Byte) : wf (storeBlock m base n f) := by
  rw [wf, storeBlock, List.pairwise_append, List.pairwise_append]
  refine ⟨⟨h.filter _, ?_, ?_⟩, h.filter _, ?_⟩
  · rw [List.pairwise_map]
    exact List.pairwise_lt_range.imp fun h => by simpa using h
  · intro c hc d hd
    simp only [List.mem_filter, List.mem_map, decide_eq_true_eq] at hc hd
    obtain ⟨j, -, rfl⟩ := hd
    have := hc.2
    show c.1 < base + j
    omega
  · intro c hc d hd
    simp only [List.mem_append, List.mem_filter, List.mem_map, List.mem_range, decide_eq_true_eq] at hc hd
    obtain ⟨-, hc⟩ | ⟨j, hj, rfl⟩ := hc
    · have := hd.2
      omega
    · have := hd.2
      show base + j < d.1
      omega

/-- The empty PIXMEM of a reset is canonical. -/
theorem wf_nil : wf [] := List.Pairwise.nil

end Memory

/-- The spec lemma of a block write: what any byte reads as afterwards. -/
theorem State.storeRange_memRead (s : State) (base n : Nat) (f : Nat → Byte) (a : Nat) :
    (s.storeRange base n f).memRead a = if base ≤ a ∧ a < base + n then f (a - base) else s.memRead a := by
  rw [State.memRead, State.storeRange_pixmem, State.storeRange_resets, Memory.lookup_storeBlock]
  by_cases h : base ≤ a ∧ a < base + n
  · simp [h]
  · simp [h, State.memRead]

/-- Inside the block, at offset `j`. -/
theorem State.storeRange_memRead_inside (s : State) {base n : Nat} (f : Nat → Byte) {j : Nat} (h : j < n) :
    (s.storeRange base n f).memRead (base + j) = f j := by
  rw [storeRange_memRead, if_pos (by omega), Nat.add_sub_cancel_left]

/-- Outside the block. -/
theorem State.storeRange_memRead_outside (s : State) {base n : Nat} (f : Nat → Byte) {a : Nat}
    (h : ¬ (base ≤ a ∧ a < base + n)) : (s.storeRange base n f).memRead a = s.memRead a := by
  rw [storeRange_memRead, if_neg h]

/-- A one-byte write. -/
theorem State.memWrite_memRead (s : State) (b : Nat) (v : Byte) (a : Nat) :
    (s.memWrite b v).memRead a = if a = b then v else s.memRead a := by
  rw [memWrite, storeRange_memRead]
  by_cases h : a = b
  · subst h; simp
  · rw [if_neg h, if_neg (by omega)]

end Sys2Proof.Machine
end

