-- ==== Sys2Proof/Laws/Commands.lean ====
section
/-! SUPPORT. What a completion can do: one lemma per shared operation, and the inversion of exec. -/

namespace Sys2Proof.Machine

/-- The first failing check is raised. -/
theorem State.runChecked_of_error {s : State} {checks : List (Bool × ECode)} {effect : State → State} {e : ECode}
    (h : firstError checks = some e) : s.runChecked checks effect = .next (s.raise e) := by
  simp [runChecked, h]

/-- With no failing check the effect happens and the command completes. -/
theorem State.runChecked_of_pass {s : State} {checks : List (Bool × ECode)} {effect : State → State}
    (h : firstError checks = none) : s.runChecked checks effect = .next (effect s).complete := by
  simp [runChecked, h]

/-- Everything a checked command can do. -/
theorem State.runChecked_cases {s t : State} {checks : List (Bool × ECode)} {effect : State → State}
    (h : s.runChecked checks effect = .next t) :
    (∃ e, firstError checks = some e ∧ t = s.raise e) ∨ (firstError checks = none ∧ t = (effect s).complete) := by
  cases hc : firstError checks with
  | some e =>
    rw [runChecked_of_error hc] at h
    injection h with h
    exact .inl ⟨e, rfl, h.symm⟩
  | none =>
    rw [runChecked_of_pass hc] at h
    injection h with h
    exact .inr ⟨rfl, h.symm⟩

/-- The first error of a list of checks is one of its errors. -/
theorem firstError_mem {checks : List (Bool × ECode)} {e : ECode} (h : firstError checks = some e) :
    ∃ bad, (bad, e) ∈ checks := by
  induction checks with
  | nil => simp [firstError] at h
  | cons c rest ih =>
    obtain ⟨bad, e'⟩ := c
    rw [firstError] at h
    split at h
    · injection h with h
      exact ⟨bad, by simp [h]⟩
    · obtain ⟨b, hb⟩ := ih h
      exact ⟨b, List.mem_cons_of_mem _ hb⟩

/-- No check fails exactly when every condition is false. -/
theorem firstError_eq_none {checks : List (Bool × ECode)} :
    firstError checks = none ↔ ∀ c ∈ checks, c.1 = false := by
  induction checks with
  | nil => simp [firstError]
  | cons c rest ih =>
    obtain ⟨bad, e⟩ := c
    cases bad <;> simp [firstError, ih]

/-! ### The checks in the words of the spec -/

theorem validThreshold_iff (b : Word) : validThreshold b = true ↔ b.toNat ≤ 0x3F800000 ∨ b = 0x80000000 := by
  simp [validThreshold]

theorem State.badDim_eq_false (s : State) : s.badDim = false ↔ 0 < s.width.toInt ∧ 0 < s.height.toInt := by
  simp [badDim]

theorem State.badLength_eq_false (s : State) (n : Nat) : s.badLength n = false ↔ s.srclen.toNat = n := by
  simp [badLength]

theorem State.badRange_eq_false (s : State) (a b : Nat) :
    s.badRange a b = false ↔ s.src.toNat + a ≤ s.cfg.memBytes ∧ s.dst.toNat + b ≤ s.cfg.memBytes := by
  simp [badRange]

theorem State.rangesOverlap_eq_true (s : State) (a b : Nat) :
    s.rangesOverlap a b = true ↔ s.src.toNat < s.dst.toNat + b ∧ s.dst.toNat < s.src.toNat + a := by
  simp [rangesOverlap, rangesMeet]

theorem State.badOverlap_eq_true (s : State) :
    s.badOverlap = true ↔ s.dst ≠ s.src ∧ s.rangesOverlap s.usz s.usz = true := by
  simp [badOverlap]

/-! ### Everything a command can do -/

/-- The checks of each command, in their order. -/
def checksOf : Instr → State → List (Bool × ECode)
  | .nop, _ => []
  | .thresh _ _, s => [(!validThreshold s.thr, .errParam), (s.badDim, .errDim), (s.badRange s.usz s.usz, .errRange),
      (s.badOverlap, .errOverlap)]
  | .filter bmode, s => [(!bmode.legal, .errCmd), (s.kcount != 9, .errKsize), (s.badDim, .errDim),
      (s.badRange s.usz s.usz, .errRange), (s.badOverlap, .errOverlap)]
  | .unpad, s => [(s.badDim, .errDim), (s.badLength s.psz, .errPixsize), (s.badRange s.psz s.usz, .errRange),
      (s.rangesOverlap s.psz s.usz, .errOverlap)]
  | .pad _, s => [(s.badDim, .errDim), (s.badLength s.usz, .errPixsize), (s.badRange s.usz s.psz, .errRange),
      (s.rangesOverlap s.usz s.psz, .errOverlap)]
  | .kclear, _ => []

/-- The effect of each command once its checks have passed. -/
def effectOf : Instr → State → State
  | .nop, s => s
  | .thresh rnd pol, s => s.storeRange s.dst.toNat s.usz (s.threshByte rnd pol)
  | .filter bmode, s => s.storeRange s.dst.toNat s.usz (s.filterByte bmode)
  | .unpad, s => s.storeRange s.dst.toNat s.usz s.unpadByte
  | .pad fill, s => s.storeRange s.dst.toNat s.psz (s.paddedByte fill)
  | .kclear, s => s.clearKernel

/-- Every command is its checks and its effect. -/
theorem exec_eq_runChecked (i : Instr) (s : State) : exec i s = s.runChecked (checksOf i s) (effectOf i) := by
  cases i <;> rfl

/-- No command's checks call for the code OK. -/
theorem checksOf_ne_ok {i : Instr} {s : State} {e : ECode} (h : firstError (checksOf i s) = some e) : e ≠ .ok := by
  obtain ⟨bad, hm⟩ := firstError_mem h
  rintro rfl
  cases i <;> simp [checksOf] at hm

/-- Everything a command can do: it raises its first error, or its effect happens and it completes. -/
theorem exec_cases {i : Instr} {s t : State} (h : exec i s = .next t) :
    (∃ e, e ≠ .ok ∧ firstError (checksOf i s) = some e ∧ t = s.raise e) ∨
      (firstError (checksOf i s) = none ∧ t = (effectOf i s).complete) := by
  rw [exec_eq_runChecked] at h
  obtain ⟨e, he, ht⟩ | h := State.runChecked_cases h
  · exact .inl ⟨e, checksOf_ne_ok he, he, ht⟩
  · exact .inr h

/-- Every effect is one of three: nothing, the clearing of the kernel file, or a write of the destination range. -/
theorem effectOf_cases (i : Instr) (s : State) :
    effectOf i s = s ∨ effectOf i s = s.clearKernel ∨ ∃ n f, effectOf i s = s.storeRange s.dst.toNat n f := by
  cases i with
  | nop => exact .inl rfl
  | kclear => exact .inr (.inl rfl)
  | thresh => exact .inr (.inr ⟨_, _, rfl⟩)
  | filter => exact .inr (.inr ⟨_, _, rfl⟩)
  | unpad => exact .inr (.inr ⟨_, _, rfl⟩)
  | pad => exact .inr (.inr ⟨_, _, rfl⟩)

/-- The destination range of a command whose checks pass lies inside PIXMEM. -/
theorem effectOf_inside {i : Instr} {s : State} (h : firstError (checksOf i s) = none) {c : Host.Cell}
    (hc : c ∈ (effectOf i s).pixmem) : c ∈ s.pixmem ∨ c.1 < s.cfg.memBytes := by
  rw [firstError_eq_none] at h
  cases i with
  | nop => exact .inl hc
  | kclear => exact .inl hc
  | thresh =>
    have hr := ((s.badRange_eq_false s.usz s.usz).mp (h (s.badRange s.usz s.usz, .errRange) (by simp [checksOf]))).2
    exact (Memory.mem_storeBlock hc).imp_right fun hc => by omega
  | filter =>
    have hr := ((s.badRange_eq_false s.usz s.usz).mp (h (s.badRange s.usz s.usz, .errRange) (by simp [checksOf]))).2
    exact (Memory.mem_storeBlock hc).imp_right fun hc => by omega
  | unpad =>
    have hr := ((s.badRange_eq_false s.psz s.usz).mp (h (s.badRange s.psz s.usz, .errRange) (by simp [checksOf]))).2
    exact (Memory.mem_storeBlock hc).imp_right fun hc => by omega
  | pad =>
    have hr := ((s.badRange_eq_false s.usz s.psz).mp (h (s.badRange s.usz s.psz, .errRange) (by simp [checksOf]))).2
    exact (Memory.mem_storeBlock hc).imp_right fun hc => by omega

/-- A completion is an execution of the decoded command, or ERR_CMD. -/
theorem State.completePending_cases {s t : State} (h : s.completePending = .next t) :
    (∃ i, decode s.pending = .ok i ∧ exec i s = .next t) ∨
      ((∃ e, decode s.pending = .error e) ∧ t = s.raise .errCmd) := by
  rw [completePending] at h
  split at h
  · next i hd => exact .inl ⟨i, hd, h⟩
  · next e hd =>
    injection h with h
    exact .inr ⟨⟨e, hd⟩, h.symm⟩

/-- Everything one step can do: an idle turn, a completion (with or without a turn taken off the agenda), a host read,
a host write, or a reset. -/
theorem step_cases {s t : State} (h : step s = .next t) :
    (s.status.busy = false ∧ ((s.agenda = [] ∧ t = s) ∨ ∃ rest, s.agenda = .engine :: rest ∧ t = { s with agenda := rest })) ∨
    (s.status.busy = true ∧ ∃ rest, (s.agenda = rest ∨ s.agenda = .engine :: rest) ∧
      ({ s with agenda := rest } : State).completePending = .next t) ∨
    (∃ wa rest, s.agenda = .read wa :: rest ∧ s.stalls wa = false ∧ t = ({ s with agenda := rest } : State).hostRead wa) ∨
    (∃ wa v strb rest, s.agenda = .write wa v strb :: rest ∧ s.stalls wa = false ∧
      t = ({ s with agenda := rest } : State).hostWrite wa v strb) ∨
    (∃ rest, s.agenda = .reset :: rest ∧ t = ({ s with agenda := rest } : State).applyReset) := by
  rw [step, State.advance] at h
  split at h
  · next ha =>
    rw [State.engineTurn] at h
    split at h
    · next hb => exact .inr (.inl ⟨hb, s.agenda, .inl rfl, h⟩)
    · next hb =>
      injection h with h
      exact .inl ⟨by simpa using hb, .inl ⟨ha, h.symm⟩⟩
  · next rest ha =>
    rw [State.engineTurn] at h
    split at h
    · next hb => exact .inr (.inl ⟨hb, rest, .inr ha, h⟩)
    · next hb =>
      injection h with h
      exact .inl ⟨by simpa using hb, .inr ⟨rest, ha, h.symm⟩⟩
  · next wa rest ha =>
    split at h
    · next hs =>
      rw [State.stalls, Bool.and_eq_true] at hs
      exact .inr (.inl ⟨hs.1, s.agenda, .inl rfl, h⟩)
    · next hs =>
      injection h with h
      exact .inr (.inr (.inl ⟨wa, rest, ha, by simpa using hs, h.symm⟩))
  · next wa v strb rest ha =>
    split at h
    · next hs =>
      rw [State.stalls, Bool.and_eq_true] at hs
      exact .inr (.inl ⟨hs.1, s.agenda, .inl rfl, h⟩)
    · next hs =>
      injection h with h
      exact .inr (.inr (.inr (.inl ⟨wa, v, strb, rest, ha, by simpa using hs, h.symm⟩)))
  · next rest ha =>
    injection h with h
    exact .inr (.inr (.inr (.inr ⟨rest, ha, h.symm⟩)))

end Sys2Proof.Machine
end

