-- ==== Sys2Proof/Laws/HostPort.lean ====
section
/-! SUPPORT. What a host access reaches and what it can do. -/

namespace Sys2Proof.Machine

/-- The aperture map in numbers. -/
theorem regionAt_eq (n : Nat) (wa : BusAddr) : regionAt n wa =
    if 4 * wa.toNat < 0x1000 then .reg (regAt (4 * wa.toNat))
    else if 0x1000000 ≤ 4 * wa.toNat ∧ 4 * wa.toNat < 0x1000000 + n then .window (4 * wa.toNat - 0x1000000)
    else .reserved := rfl

/-- An access below the end of the register page reaches a register. -/
theorem regionAt_page {n : Nat} {wa : BusAddr} (h : 4 * wa.toNat < 0x1000) :
    regionAt n wa = .reg (regAt (4 * wa.toNat)) := by
  rw [regionAt_eq, if_pos h]

/-- An access to the PIXMEM window. -/
theorem regionAt_window {n : Nat} {wa : BusAddr} (h : windowBase ≤ 4 * wa.toNat) (h' : 4 * wa.toNat < windowBase + n) :
    regionAt n wa = .window (4 * wa.toNat - windowBase) := by
  rw [windowBase] at *
  rw [regionAt_eq, if_neg (by omega), if_pos ⟨h, h'⟩]

/-- A reserved access: past the register page and outside the window. -/
theorem regionAt_reserved {n : Nat} {wa : BusAddr} (h : 0x1000 ≤ 4 * wa.toNat)
    (h' : 4 * wa.toNat < windowBase ∨ windowBase + n ≤ 4 * wa.toNat) : regionAt n wa = .reserved := by
  rw [windowBase] at h'
  rw [regionAt_eq, if_neg (by omega), if_neg (by omega)]

/-- A bus address whose offset is that of a register reaches it. -/
theorem regAt_offset (r : Reg) : regAt r.offset = r := by
  cases r with
  | kernel i => revert i; decide
  | _ => rfl

/-- Past MEMSIZE every offset is reserved (10_state.md R41). -/
theorem regAt_of_le {off : Nat} (h : 0x068 ≤ off) : regAt off = .reserved := by
  unfold regAt
  repeat rw [if_neg (by omega)]
  rw [dif_neg (by omega)]

/-- A word-aligned offset that reaches a register is that register's offset. -/
theorem regAt_eq_offset {off : Nat} (h : off % 4 = 0) (hr : regAt off ≠ .reserved) : off = (regAt off).offset := by
  by_cases hl : off < 0x068
  · have key : ∀ n : Fin 0x068, n.val % 4 = 0 → regAt n.val ≠ .reserved → n.val = (regAt n.val).offset := by
      decide +kernel
    exact key ⟨off, hl⟩ h hr
  · exact (hr (regAt_of_le (by omega))).elim

/-- A bus address reaches a register exactly below the end of the register page. -/
theorem regionAt_eq_reg {n : Nat} {wa : BusAddr} {r : Reg} (h : regionAt n wa = .reg r) :
    4 * wa.toNat < 0x1000 ∧ r = regAt (4 * wa.toNat) := by
  rw [regionAt_eq] at h
  split at h
  · next hp => injection h with h; exact ⟨hp, h.symm⟩
  · split at h <;> cases h

/-- A bus address reaches the window exactly inside it. -/
theorem regionAt_eq_window {n a : Nat} {wa : BusAddr} (h : regionAt n wa = .window a) :
    windowBase ≤ 4 * wa.toNat ∧ 4 * wa.toNat < windowBase + n ∧ a = 4 * wa.toNat - windowBase := by
  rw [regionAt_eq] at h
  split at h
  · cases h
  · split at h
    · next hw => injection h with h; exact ⟨hw.1, hw.2, h.symm⟩
    · cases h

/-- An access outside the window never stalls. -/
theorem State.stalls_page {s : State} {wa : BusAddr} (h : 4 * wa.toNat < 0x1000) : s.stalls wa = false := by
  simp [stalls, regionAt_page h]

/-- Everything an accepted or dropped register write can change: registers only, never PIXMEM or the model's own. -/
theorem State.writeReg_keeps (s : State) (r : Reg) (v : Word) (strb : BitVec 4) :
    (s.writeReg r v strb).cfg = s.cfg ∧ (s.writeReg r v strb).pixmem = s.pixmem ∧
      (s.writeReg r v strb).resets = s.resets ∧ (s.writeReg r v strb).agenda = s.agenda ∧
      (s.writeReg r v strb).reads = s.reads := by
  rw [writeReg]
  split
  · split
    · exact ⟨rfl, rfl, rfl, rfl, rfl⟩
    · cases r <;> exact ⟨rfl, rfl, rfl, rfl, rfl⟩
  · exact ⟨rfl, rfl, rfl, rfl, rfl⟩

/-- One lane of a window write: its byte, if its strobe is set. -/
theorem State.writeLane_memRead (a : Nat) (v : Word) (strb : BitVec 4) (s : State) (j x : Nat) :
    (State.writeLane a v strb s j).memRead x =
      if strb.getLsbD j = true ∧ x = a + j then v.extractLsb' (8 * j) 8 else s.memRead x := by
  rw [writeLane]
  by_cases h : strb.getLsbD j = true
  · rw [if_pos h, memWrite_memRead]; simp [h]
  · rw [if_neg h]; simp [h]

/-- One lane of a window write changes PIXMEM only. -/
theorem State.writeLane_keeps (a : Nat) (v : Word) (strb : BitVec 4) (s : State) (j : Nat) :
    State.writeLane a v strb s j = { s with pixmem := (State.writeLane a v strb s j).pixmem } := by
  rw [writeLane]
  split <;> rfl

/-- A window write: what any byte reads as afterwards. -/
theorem State.writeWindow_memRead (s : State) (a : Nat) (v : Word) (strb : BitVec 4) (x : Nat) :
    (s.writeWindow a v strb).memRead x =
      if a ≤ x ∧ x < a + 4 ∧ strb.getLsbD (x - a) = true then v.extractLsb' (8 * (x - a)) 8 else s.memRead x := by
  simp only [writeWindow, List.foldl_cons, List.foldl_nil, writeLane_memRead]
  by_cases h : a ≤ x ∧ x < a + 4
  · obtain ⟨h1, h2⟩ := h
    obtain ⟨j, rfl⟩ := Nat.exists_eq_add_of_le h1
    have hj : j = 0 ∨ j = 1 ∨ j = 2 ∨ j = 3 := by omega
    rcases hj with rfl | rfl | rfl | rfl <;> simp
  · rw [if_neg (by omega), if_neg (by omega), if_neg (by omega), if_neg (by omega), if_neg (by tauto)]

/-- A window write changes PIXMEM only. -/
theorem State.writeWindow_keeps (s : State) (a : Nat) (v : Word) (strb : BitVec 4) :
    s.writeWindow a v strb = { s with pixmem := (s.writeWindow a v strb).pixmem } := by
  simp only [writeWindow, List.foldl_cons, List.foldl_nil]
  rw [writeLane_keeps a v strb _ 3, writeLane_keeps a v strb _ 2, writeLane_keeps a v strb _ 1,
    writeLane_keeps a v strb _ 0]

/-- A window write keeps the canonical form, and lists only old addresses and those of its word. -/
theorem State.writeWindow_wf {s : State} (h : Memory.wf s.pixmem) (a : Nat) (v : Word) (strb : BitVec 4) :
    Memory.wf (s.writeWindow a v strb).pixmem ∧
      ∀ c ∈ (s.writeWindow a v strb).pixmem, c ∈ s.pixmem ∨ (a ≤ c.1 ∧ c.1 < a + 4) := by
  have lane : ∀ (u : State) (j : Nat), j < 4 → Memory.wf u.pixmem →
      (∀ c ∈ u.pixmem, c ∈ s.pixmem ∨ (a ≤ c.1 ∧ c.1 < a + 4)) →
      Memory.wf (State.writeLane a v strb u j).pixmem ∧
        ∀ c ∈ (State.writeLane a v strb u j).pixmem, c ∈ s.pixmem ∨ (a ≤ c.1 ∧ c.1 < a + 4) := by
    intro u j hj hw hi
    rw [writeLane]
    split
    · refine ⟨Memory.wf_storeBlock hw _ _ _, fun c hc => ?_⟩
      obtain hc | hc := Memory.mem_storeBlock hc
      · exact hi c hc
      · exact .inr (by omega)
    · exact ⟨hw, hi⟩
  obtain ⟨w0, i0⟩ := lane s 0 (by omega) h fun c hc => .inl hc
  obtain ⟨w1, i1⟩ := lane _ 1 (by omega) w0 i0
  obtain ⟨w2, i2⟩ := lane _ 2 (by omega) w1 i1
  exact lane _ 3 (by omega) w2 i2

/-- A byte lane of a window read. -/
theorem State.readWindow_lane (s : State) (a : Nat) {j : Nat} (h : j < 4) :
    (s.readWindow a).extractLsb' (8 * j) 8 = s.memRead (a + j) := by
  have hj : j = 0 ∨ j = 1 ∨ j = 2 ∨ j = 3 := by omega
  apply BitVec.eq_of_getLsbD_eq
  intro i hi
  rcases hj with rfl | rfl | rfl | rfl
  all_goals
    simp only [readWindow, BitVec.getLsbD_extractLsb', BitVec.getLsbD_append, hi, decide_true, Bool.true_and]
  · rw [if_pos (by omega), show 8 * 0 + i = i by omega, Nat.add_zero]
  · rw [if_neg (by omega), if_pos (by omega), show 8 * 1 + i - 8 = i by omega]
  · rw [if_neg (by omega), if_neg (by omega), if_pos (by omega), show 8 * 2 + i - 8 - 8 = i by omega]
  · rw [if_neg (by omega), if_neg (by omega), if_neg (by omega), show 8 * 3 + i - 8 - 8 - 8 = i by omega]

end Sys2Proof.Machine
end

