-- ==== Sys2Proof/Laws/PerInstr.lean ====
section
/-! SUPPORT. The family Fields: what the three fields of every command's word hold (30_encoding.md R100, R102). -/

namespace Sys2Proof.Laws.Fields

/-- The word of an instruction has RSVD = 0 and holds the instruction's opcode and mode in their fields. -/
def Statement (i : Instr) : Prop :=
  rsvdField (encode i) = 0 ∧ opField (encode i) = encodeOp i ∧ modeField (encode i) = encodeMode i

theorem nop : Statement .nop := by simp only [Statement]; decide

theorem thresh (rnd : Rounding) (pol : Polarity) : Statement (.thresh rnd pol) := by
  cases rnd <;> cases pol <;> simp only [Statement] <;> decide

theorem filter (bmode : BMode) : Statement (.filter bmode) := by
  cases bmode <;> simp only [Statement] <;> decide

theorem unpad : Statement .unpad := by simp only [Statement]; decide

theorem pad (fill : Fill) : Statement (.pad fill) := by cases fill <;> simp only [Statement] <;> decide

theorem kclear : Statement .kclear := by simp only [Statement]; decide

end Sys2Proof.Laws.Fields
end

