-- ==== Sys2Proof/Laws/Step.lean ====
section
/-! SUPPORT. What single steps do, and how runs of the machine unfold. -/

namespace Sys2Proof.Machine

/-- A host write to the register page. -/
theorem step_writeReg {s : State} {wa : BusAddr} {v : Word} {strb : BitVec 4} {rest : List Turn}
    (ha : s.agenda = .write wa v strb :: rest) (h : 4 * wa.toNat < 0x1000) :
    step s = .next (({ s with agenda := rest } : State).writeReg (regAt (4 * wa.toNat)) v strb) := by
  simp [step, State.advance, ha, State.stalls_page h, State.hostWrite, regionAt_page h]

/-- A host read that does not stall. -/
theorem step_hostRead {s : State} {wa : BusAddr} {rest : List Turn} (ha : s.agenda = .read wa :: rest)
    (h : s.stalls wa = false) : step s = .next (({ s with agenda := rest } : State).hostRead wa) := by
  simp [step, State.advance, ha, h]

/-- A host write that does not stall. -/
theorem step_hostWrite {s : State} {wa : BusAddr} {v : Word} {strb : BitVec 4} {rest : List Turn}
    (ha : s.agenda = .write wa v strb :: rest) (h : s.stalls wa = false) :
    step s = .next (({ s with agenda := rest } : State).hostWrite wa v strb) := by
  simp [step, State.advance, ha, h]

/-- The engine's turn while a command is pending. -/
theorem step_engine {s : State} {rest : List Turn} (ha : s.agenda = .engine :: rest) (hb : s.status.busy = true) :
    step s = ({ s with agenda := rest } : State).completePending := by
  simp [step, State.advance, ha, State.engineTurn, hb]

/-- A window read while a command is pending: the command completes and the access stays (20_memory.md R76). -/
theorem step_stalled_read {s : State} {wa : BusAddr} {rest : List Turn} (ha : s.agenda = .read wa :: rest)
    (h : s.stalls wa = true) : step s = s.completePending := by
  simp [step, State.advance, ha, h]

/-- A window write while a command is pending: the command completes and the access stays (20_memory.md R76). -/
theorem step_stalled_write {s : State} {wa : BusAddr} {v : Word} {strb : BitVec 4} {rest : List Turn}
    (ha : s.agenda = .write wa v strb :: rest) (h : s.stalls wa = true) : step s = s.completePending := by
  simp [step, State.advance, ha, h]

/-- The completion of a legal word is its command's execution (43_control.md R231). -/
theorem State.completePending_of_ok {s : State} {i : Instr} (h : decode s.pending = .ok i) :
    s.completePending = exec i s := by
  simp [completePending, h]

/-- The completion of an ILLEGAL word is ERR_CMD (30_encoding.md R108). -/
theorem State.completePending_of_error {s : State} {e : DecodeError} (h : decode s.pending = .error e) :
    s.completePending = .next (s.raise .errCmd) := by
  simp [completePending, h]

/-- A run goes on after a step. -/
theorem run_succ {n : Nat} {s t : State} (h : step s = .next t) :
    Host.Core.run core (n + 1) s = Host.Core.run core n t := by
  have h' : core.step s = .next t := h
  simp only [Host.Core.run]
  rw [h']

/-- K[i] after a push (42_filter.md R191). -/
theorem State.pushKernel_get (s : State) (v : Word) (i : Fin 9) :
    (s.pushKernel v).k.get i = if i.val = s.kcount.toNat then v else s.k.get i := by
  show (s.k.setIfInBounds s.kcount.toNat v)[i.val] = if i.val = s.kcount.toNat then v else s.k[i.val]
  rw [Vector.getElem_setIfInBounds]
  by_cases h : s.kcount.toNat = i.val
  · simp [h]
  · rw [if_neg h, if_neg (Ne.symm h)]

/-- K[i] after KCLEAR or reset. -/
theorem kernel_zero_get (i : Fin 9) : (Vector.replicate 9 (0 : Word)).get i = 0 := by simp [Vector.get]

/-- K[i] as the filter reads it. -/
theorem State.kernelReg_eq_get (s : State) (i : Fin 9) : s.kernelReg i.val = s.k.get i := by
  rw [kernelReg, Vector.getElem?_eq_getElem i.isLt]
  rfl

end Sys2Proof.Machine
end

