-- ==== Sys2Proof/Tests/Slice0.lean ====
section
/-! SUPPORT. Tests of the model against values written out from spec/ (95_test_vectors.md and the rules' own examples),
and the witnesses: for every statement with hypotheses, concrete values that meet them all. -/

namespace Sys2Proof.Tests

open Sys2Proof Sys2Proof.Machine

/-- The next state of an outcome (State.reset for any other outcome, which no test meets). -/
def nextOf : Host.Outcome State Fault Refusal → State
  | .next t => t
  | .fault _ => State.reset
  | .refused _ => State.reset

/-- The `n` bytes of PIXMEM from `a` on, as numbers. -/
def bytesAt (s : State) (a n : Nat) : List Nat := (List.range n).map fun j => (s.memRead (a + j)).toNat

/-- A reset machine with a w × h image at SRC = 0 and DST = 0x40. -/
def image (w h len : Word) (px : List Nat) : State :=
  { State.reset with
    width := w, height := h, srclen := len, src := 0, dst := 0x40
    pixmem := px.zipIdx.map fun p => (p.2, BitVec.ofNat 8 p.1) }

/-- The image A of 95_test_vectors.md 5.1 with a loaded kernel. -/
def imageA (k : Vector Word 9) : State := { image 3 3 9 [1, 2, 3, 4, 5, 6, 7, 8, 9] with k := k, kcount := 9 }

/-- The pixels of 95_test_vectors.md 4.2 with a threshold. -/
def imageT (thr : Word) : State := { image 6 1 6 [0x00, 0x01, 0x7F, 0x80, 0xFE, 0xFF] with thr := thr, dst := 0 }

/-- A machine with command word `c` pending and the turns `l` to come. -/
def busyWith (c : Word) (l : List Turn) : State := { State.reset.issue c with agenda := l }

/-- An idle machine with the turns `l` to come. -/
def idleWith (l : List Turn) : State := { State.reset with agenda := l }

/-! ### Well-formedness: the one check, and the ill-formed terms it refuses -/

theorem test_wf_refuses_reserved_bmode_two : (Instr.filter .reservedTwo).wf = false := by decide
theorem test_wf_refuses_reserved_bmode_three : (Instr.filter .reservedThree).wf = false := by decide
theorem test_wf_accepts_every_other_bmode :
    (Instr.filter .replicate).wf = true ∧ (Instr.filter .zeroPad).wf = true := by decide

/-! ### Decoding: words written out from 30_encoding.md R100 to R109 (RSVD 24 bits, MODE 4 bits, OP 4 bits) -/

theorem test_decode_nop : decode 0b000000000000000000000000_0000_0000 = .ok .nop := by decide
theorem test_decode_thresh :
    decode 0b000000000000000000000000_0000_0001 = .ok (.thresh .truncate .inverted) ∧
    decode 0b000000000000000000000000_0001_0001 = .ok (.thresh .nearest .inverted) ∧
    decode 0b000000000000000000000000_0010_0001 = .ok (.thresh .truncate .direct) ∧
    decode 0b000000000000000000000000_0011_0001 = .ok (.thresh .nearest .direct) := by decide
theorem test_decode_filter :
    decode 0b000000000000000000000000_0000_0010 = .ok (.filter .replicate) ∧
    decode 0b000000000000000000000000_0001_0010 = .ok (.filter .zeroPad) := by decide
theorem test_decode_unpad : decode 0b000000000000000000000000_0000_0011 = .ok .unpad := by decide
theorem test_decode_pad :
    decode 0b000000000000000000000000_0000_0100 = .ok (.pad .zero) ∧
    decode 0b000000000000000000000000_0001_0100 = .ok (.pad .next) := by decide
theorem test_decode_kclear : decode 0b000000000000000000000000_0000_0101 = .ok .kclear := by decide

/-- The illegal words of 95_test_vectors.md 3, each with the cause R250 gives. -/
theorem test_decode_illegal :
    decode 0x00000006 = .error .reservedOpcode ∧ decode 0x0000000F = .error .reservedOpcode ∧
    decode 0x00000010 = .error .undefinedMode ∧ decode 0x00000041 = .error .undefinedMode ∧
    decode 0x00000022 = .error .reservedBMode ∧ decode 0x00000032 = .error .reservedBMode ∧
    decode 0x00000013 = .error .undefinedMode ∧ decode 0x00000024 = .error .undefinedMode ∧
    decode 0x00000015 = .error .undefinedMode ∧ decode 0x00000100 = .error .reservedBits ∧
    decode 0x80000001 = .error .reservedBits ∧ decode 0xFFFFFFFF = .error .reservedBits := by decide

/-- A command placed for the next step runs in it (the result codes are those R250 and R255 give right after reset). -/
theorem test_fetch_word_runs_next :
    [0, 1, 2, 3, 4, 5, 6].map (fun w => (nextOf (step (State.reset.withFetchWord 32 w))).status.ecode) =
      [.ok, .errDim, .errKsize, .errDim, .errDim, .ok, .errCmd] := by decide

/-! ### NOP and KCLEAR -/

/-- R233's example. -/
theorem test_nop_status : ((nextOf (exec .nop State.reset)).readReg .status).toNat = 0x2 := by decide

/-- R192's example. -/
theorem test_kclear_example :
    ((nextOf (exec .kclear (imageA #v[1, 2, 3, 4, 5, 6, 7, 8, 9]))).k.toList.map BitVec.toNat,
      (nextOf (exec .kclear (imageA #v[1, 2, 3, 4, 5, 6, 7, 8, 9]))).kcount.toNat) =
      ([0, 0, 0, 0, 0, 0, 0, 0, 0], 0) := by decide

/-! ### THRESH -/

/-- 95_test_vectors.md 4.2, THR = 0x3F00_0000, `thresh.rnd`: the cut is 128, so 0x80 is not above it. -/
theorem test_thresh_rnd_half :
    bytesAt (nextOf (exec (.thresh .nearest .inverted) (imageT 0x3F000000))) 0 6 =
      [0xFF, 0xFF, 0xFF, 0xFF, 0x00, 0x00] := by decide

/-- 95_test_vectors.md 4.2, THR = 0x3DCC_CCCD, `thresh.pos`. -/
theorem test_thresh_pos_tenth :
    bytesAt (nextOf (exec (.thresh .truncate .direct) (imageT 0x3DCCCCCD))) 0 6 =
      [0x00, 0x00, 0xFF, 0xFF, 0xFF, 0xFF] := by decide

/-- The cut table of 95_test_vectors.md 4.1. -/
theorem test_cut_table :
    ([0x00000000, 0x80000000, 0x00000001, 0x3B808081, 0x3DCCCCCD, 0x3E800000, 0x3F000000, 0x3F010101, 0x3F19999A,
      0x3F7F7F7F, 0x3F7FFFFF, 0x3F800000] : List Word).map (fun b => (cutOf b .truncate, cutOf b .nearest)) =
      [(0, 0), (0, 0), (0, 0), (1, 1), (25, 26), (63, 64), (127, 128), (128, 128), (153, 153), (254, 254), (254, 255),
        (255, 255)] := by decide

/-! ### FILTER -/

/-- 95_test_vectors.md 5.1, e_0 under replicate: kernel row 0 weights the row below, column 0 the column to the left. -/
theorem test_filter_replicate_e0 :
    bytesAt (nextOf (exec (.filter .replicate) (imageA #v[1, 0, 0, 0, 0, 0, 0, 0, 0]))) 0x40 9 =
      [4, 4, 5, 7, 7, 8, 7, 7, 8] := by decide

/-- 95_test_vectors.md 5.1, the kernel (1,0,-1, 2,0,-2, 1,0,-1) under zero-pad. -/
theorem test_filter_zero_sobel :
    bytesAt (nextOf (exec (.filter .zeroPad) (imageA #v[1, 0, -1, 2, 0, -2, 1, 0, -1]))) 0x40 9 =
      [247, 250, 9, 236, 248, 20, 235, 250, 21] := by decide

/-! ### UNPAD and PAD -/

/-- R134's example. -/
theorem test_unpad_example :
    bytesAt (nextOf (exec .unpad (image 3 2 8 [0x11, 0x12, 0x13, 0xAA, 0x21, 0x22, 0x23, 0xBB]))) 0x40 6 =
      [0x11, 0x12, 0x13, 0x21, 0x22, 0x23] := by decide

/-- R136's example with FILL = 1. -/
theorem test_pad_next_example :
    bytesAt (nextOf (exec (.pad .next) (image 3 2 6 [0x11, 0x12, 0x13, 0x21, 0x22, 0x23]))) 0x40 8 =
      [0x11, 0x12, 0x13, 0x21, 0x21, 0x22, 0x23, 0x00] := by decide

/-- 95_test_vectors.md 2.2, PAD with FILL = 0 of a 1 × 5 image (three padding bytes a row). -/
theorem test_pad_zero_narrow :
    bytesAt (nextOf (exec (.pad .zero) (image 1 5 5 [5, 6, 7, 8, 9]))) 0x40 20 =
      [5, 0, 0, 0, 6, 0, 0, 0, 7, 0, 0, 0, 8, 0, 0, 0, 9, 0, 0, 0] := by decide

/-! ### The host port -/

/-- 95_test_vectors.md 2.1: PADB, STRIDE, USIZE and PSIZE for WIDTH = -3 and HEIGHT = 3. -/
theorem test_derived_registers_negative_width :
    [Reg.padb, .stride, .usize, .psize].map (fun r => ((image 0xFFFFFFFD 3 0 []).readReg r).toNat) =
      [3, 0, 0xFFFFFFF7, 0] := by decide

/-- 95_test_vectors.md 7: `wr STATUS, 0xE` on 0x30E leaves 0x300. -/
theorem test_status_clear_keeps_ecode :
    (({ State.reset with
        status := { busy := false, done := true, err := true, busywr := true, ecode := .errKsize } } : State).writeReg
      .status 0xE 0b1111).status.word.toNat = 0x300 := by decide

/-- 95_test_vectors.md 8: `ww 0x0, 0x4433_2211` puts 11 22 33 44 in bytes 0 to 3. -/
theorem test_window_write_is_little_endian :
    bytesAt (nextOf (step (idleWith [ww 0x0 0x44332211]))) 0 4 = [0x11, 0x22, 0x33, 0x44] := by decide

/-- 95_test_vectors.md 8: `wb 0x6, 0xAB` is a write at offset 0x100_0004 with strobes 0b0100 that sets byte 6. -/
theorem test_byte_write_lane :
    wb 0x6 0xAB = .write (busAddr 0x1000004) 0x00AB0000 0b0100 ∧
      bytesAt (nextOf (step (idleWith [wb 0x6 0xAB]))) 6 1 = [0xAB] := by decide

/-- 95_test_vectors.md 7: a read past PIXMEM, at MEM_BYTES = 2^20, returns 0 while a command is pending. -/
theorem test_read_beyond_window :
    (nextOf (step (busyWith 0 [rw 0x100000]))).reads = [0] ∧
      (nextOf (step (busyWith 0 [rw 0x100000]))).status.busy = true := by decide

/-! ### Witnesses: the hypotheses of the statements are met

Each theorem gives concrete values that meet every hypothesis of the statement it is named after, clause by clause. -/

theorem witness_StepRunsThePendingCommand :
    (busyWith 5 []).status.busy = true ∧ decode (busyWith 5 []).pending = .ok .kclear ∧
    (busyWith 5 [.engine]).agenda = .engine :: [] ∧ (busyWith 5 []).agenda = [] ∧
    (busyWith 5 [rw 0xFFFFC]).agenda = .read (busAddr 0x10FFFFC) :: [] ∧
    (busyWith 5 [ww 0 7]).agenda = .write (busAddr 0x1000000) 7 0b1111 :: [] ∧
    windowBase ≤ 4 * (busAddr 0x1000000).toNat ∧
    4 * (busAddr 0x10FFFFC).toNat < windowBase + (busyWith 5 []).cfg.memBytes := by decide

theorem witness_IllegalWordReportsErrCmd :
    (busyWith 0x22 [.engine]).status.busy = true ∧ (busyWith 0x22 [.engine]).agenda = .engine :: [] ∧
    decode (busyWith 0x22 [.engine]).pending = .error .reservedBMode ∧ (busyWith 0x22 []).agenda = [] ∧
    (busyWith 0x22 [rw 0]).agenda = .read (busAddr 0x1000000) :: [] ∧
    (busyWith 0x22 [ww 0 7]).agenda = .write (busAddr 0x1000000) 7 0b1111 :: [] ∧
    windowBase ≤ 4 * (busAddr 0x1000000).toNat ∧
    4 * (busAddr 0x1000000).toNat < windowBase + (busyWith 0x22 []).cfg.memBytes := by decide

theorem witness_IdleEngineDoesNothing :
    State.reset.status.busy = false ∧ State.reset.agenda = [] ∧ (idleWith [.engine]).agenda = .engine :: [] := by decide

/-- The state of the witnesses below meets the invariant with bytes listed. -/
theorem witness_StepKeepsTheInvariant :
    (image 3 2 6 [0x11, 0x12, 0x13]).Inv ∧ ∃ t, step (image 3 2 6 [0x11, 0x12, 0x13]) = .next t :=
  ⟨⟨by decide, by decide, by decide, by decide⟩, _, rfl⟩

theorem witness_ResetMeetsTheInvariant : Config.Legal { memBytes := 4 } ∧ Config.Legal { memBytes := 2 ^ 24 } := by decide

theorem witness_NopOnlyReportsCompletion :
    (∃ t, exec .nop { State.reset with ctrlIE := true } = .next t) ∧
    opField 0x10 = 0 ∧ (0x10 : Word) ≠ 0 ∧ (busyWith 0x10 []).pending = 0x10 ∧
    State.reset.readReg .status = 0 ∧ ∃ t, exec .nop (State.reset.issue 0) = .next t :=
  ⟨⟨_, rfl⟩, by decide, by decide, by decide, by decide, _, rfl⟩

/-- In place with -0, and out of place with t = 1 and the destination range ending at MEM_BYTES. -/
theorem witness_ThreshBinarisesTheBuffer :
    (ThresholdOk (imageT 0x80000000) ∧ DimsOk (imageT 0x80000000) ∧
      RangesOk (imageT 0x80000000) (imageT 0x80000000).usz (imageT 0x80000000).usz ∧
      (imageT 0x80000000).dst = (imageT 0x80000000).src) ∧
    (ThresholdOk { imageT 0x3F800000 with dst := 0xFFFFA } ∧ DimsOk { imageT 0x3F800000 with dst := 0xFFFFA } ∧
      RangesOk { imageT 0x3F800000 with dst := 0xFFFFA } 6 6 ∧
      ¬ RangesMeet { imageT 0x3F800000 with dst := 0xFFFFA } 6 6) := by decide

/-- 95_test_vectors.md 6: one state for each of the four errors. -/
theorem witness_ThreshReportsTheFirstError :
    ¬ ThresholdOk (imageT 0x3F800001) ∧
    (ThresholdOk State.reset ∧ ¬ DimsOk { imageT 0 with width := 0xFFFFFFFF }) ∧
    (DimsOk { imageT 0 with width := 16, src := 0xFFFF1 } ∧
      ¬ RangesOk { imageT 0 with width := 16, src := 0xFFFF1 } 16 16) ∧
    (DimsOk { imageT 0 with width := 4, dst := 1 } ∧ RangesOk { imageT 0 with width := 4, dst := 1 } 4 4 ∧
      ({ imageT 0 with width := 4, dst := 1 } : State).dst ≠ 0 ∧
      RangesMeet { imageT 0 with width := 4, dst := 1 } 4 4) := by decide

theorem witness_InvalidThresholdLeavesPixmem : validThreshold (imageT 0x7FC00000).thr = false := by decide

/-- The ends of the invalid ranges, and a NaN. -/
theorem witness_ValidPatternsDenoteUnitNumbers :
    (0x80000001 ≤ (0x80000001 : Word).toNat ∧ (0xFF7FFFFF : Word).toNat ≤ 0xFF7FFFFF) ∧
    (0x3F800001 ≤ (0x3F800001 : Word).toNat ∧ (0x7F7FFFFF : Word).toNat ≤ 0x7F7FFFFF) ∧
    floatExponent 0x7FC00000 = 255 ∧ floatFraction 0x7FC00000 ≠ 0 ∧
    validThreshold (imageT 0x7FC00000).thr = false := by decide

/-- t = 1/2, with the cases t = 0 and t = 1. -/
theorem witness_CutIsTheExactFloor :
    (validThreshold 0x3F000000 = true ∧ thresholdValue 0x3F000000 = some (1 / 2)) ∧
    (validThreshold 0x00000000 = true ∧ thresholdValue 0x00000000 = some 0) ∧
    (validThreshold 0x3F800000 = true ∧ thresholdValue 0x3F800000 = some 1) := by
  refine ⟨⟨by decide, ?_⟩, ⟨by decide, ?_⟩, by decide, ?_⟩
  · rw [thresholdValue, floatSign, show floatExponent 0x3F000000 = 126 by decide,
      show floatFraction 0x3F000000 = 0 by decide, show (0x3F000000 : Word).getLsbD 31 = false by decide]
    norm_num
  · rw [thresholdValue, floatSign, show floatExponent 0 = 0 by decide, show floatFraction 0 = 0 by decide]
    norm_num
  · rw [thresholdValue, floatSign, show floatExponent 0x3F800000 = 127 by decide,
      show floatFraction 0x3F800000 = 0 by decide, show (0x3F800000 : Word).getLsbD 31 = false by decide]
    norm_num

/-- In place with cut = 127 (both polarities), and with cut = 255. -/
theorem witness_ThreshTwiceInPlace :
    (imageT 0x3F000000).dst = (imageT 0x3F000000).src ∧ cutOf (imageT 0x3F000000).thr .truncate < 255 ∧
    cutOf (imageT 0x3F800000).thr .truncate = 255 ∧
    (∃ t, exec (.thresh .truncate .direct) (imageT 0x3F000000) = .next t ∧ t.status.ecode = .ok) ∧
    (∃ t, exec (.thresh .truncate .inverted) (imageT 0x3F800000) = .next t ∧ t.status.ecode = .ok) :=
  ⟨by decide, by decide, by decide, ⟨_, rfl, rfl⟩, _, rfl, rfl⟩

/-- Out of place, and in place, in both modes. -/
theorem witness_FilterConvolvesTheImage :
    BMode.replicate.legal = true ∧ BMode.zeroPad.legal = true ∧ (imageA #v[1, 2, 3, 4, 5, 6, 7, 8, 9]).kcount = 9 ∧
    DimsOk (imageA #v[1, 2, 3, 4, 5, 6, 7, 8, 9]) ∧ RangesOk (imageA #v[1, 2, 3, 4, 5, 6, 7, 8, 9]) 9 9 ∧
    ¬ RangesMeet (imageA #v[1, 2, 3, 4, 5, 6, 7, 8, 9]) 9 9 ∧
    (imageA #v[1, 2, 3, 4, 5, 6, 7, 8, 9]).usz = 9 ∧
    ({ imageA #v[1, 2, 3, 4, 5, 6, 7, 8, 9] with dst := 0 } : State).dst = (imageA #v[1, 2, 3, 4, 5, 6, 7, 8, 9]).src ∧
    RangesOk { imageA #v[1, 2, 3, 4, 5, 6, 7, 8, 9] with dst := 0 } 9 9 := by decide

/-- 95_test_vectors.md 5.3 and 6: one state for each of the five errors. -/
theorem witness_FilterReportsTheFirstError :
    BMode.reservedTwo.legal = false ∧ BMode.reservedThree.legal = false ∧
    State.reset.kcount ≠ 9 ∧
    ¬ DimsOk { State.reset with kcount := 9 } ∧
    (DimsOk { imageA #v[0, 0, 0, 0, 0, 0, 0, 0, 0] with src := 0xFFFFC } ∧
      ¬ RangesOk { imageA #v[0, 0, 0, 0, 0, 0, 0, 0, 0] with src := 0xFFFFC } 9 9) ∧
    (RangesOk { imageA #v[0, 0, 0, 0, 0, 0, 0, 0, 0] with dst := 8 } 9 9 ∧
      RangesMeet { imageA #v[0, 0, 0, 0, 0, 0, 0, 0, 0] with dst := 8 } 9 9 ∧
      ({ imageA #v[0, 0, 0, 0, 0, 0, 0, 0, 0] with dst := 8 } : State).dst ≠ 0) := by decide

theorem witness_IdentityKernelCopiesTheImage :
    (∀ i : Fin 9, (imageA #v[0, 0, 0, 0, 1, 0, 0, 0, 0]).k.get i = if i = 4 then 1 else 0) ∧
    ∃ t, exec (.filter .zeroPad) (imageA #v[0, 0, 0, 0, 1, 0, 0, 0, 0]) = .next t ∧ t.status.ecode = .ok :=
  ⟨by decide, _, rfl, rfl⟩

/-- 257 acts as 1 (42_filter.md R196). -/
theorem witness_FilterReadsOnlyLowKernelBytes :
    (∀ i : Fin 9, ((#v[0, 0, 0, 0, 257, 0, 0, 0, 0] : Vector Word 9).get i).setWidth 8 =
      ((imageA #v[0, 0, 0, 0, 1, 0, 0, 0, 0]).k.get i).setWidth 8) ∧
    ∃ t, exec (.filter .replicate) (imageA #v[0, 0, 0, 0, 1, 0, 0, 0, 0]) = .next t :=
  ⟨by decide, _, rfl⟩

theorem witness_KdataPushFillsAndCounts :
    (idleWith [wr .kdata 7]).status.busy = false ∧ 4 * (busAddr 0x028).toNat = 0x028 ∧
    (idleWith [wr .kdata 7]).agenda = .write (busAddr 0x028) 7 0b1111 :: [] := by decide

theorem witness_PushSequenceFillsTheKernel : ∃ t, exec .kclear State.reset = .next t := ⟨_, rfl⟩

theorem witness_LoadkLoadsTheKernel : State.reset.status.busy = false := by decide

theorem witness_WrongKernelSizeIsRejected :
    (List.replicate 8 (1 : Word)).length = 8 ∧ (List.replicate 10 (1 : Word)).length = 10 ∧
    BMode.replicate.legal = true ∧ ∃ t, exec .kclear State.reset = .next t :=
  ⟨by decide, by decide, by decide, _, rfl⟩

/-- The three causes each change the kernel file. -/
theorem witness_KernelChangesOnlyByPushClearReset :
    (step (idleWith [wr .kdata 7])) = .next (nextOf (step (idleWith [wr .kdata 7]))) ∧
    (nextOf (step (idleWith [wr .kdata 7]))).kcount ≠ (idleWith [wr .kdata 7]).kcount ∧
    (nextOf (step { busyWith 5 [] with kcount := 9 })).kcount ≠ 9 ∧
    (nextOf (step { busyWith 5 [] with kcount := 9 })).status.busy = false ∧
    (nextOf (step { idleWith [.reset] with kcount := 9 })).kcount ≠ 9 :=
  ⟨rfl, by decide, by decide, by decide, by decide⟩

theorem witness_StrideIsTheLeastMultipleOfFour : 0 < 1 ∧ 4 % 4 = 0 ∧ 1 ≤ 4 := by decide

/-- The destination adjacent to the source. -/
theorem witness_UnpadStripsThePadding :
    DimsOk { image 3 2 8 [] with dst := 8 } ∧ ({ image 3 2 8 [] with dst := 8 } : State).psz = 8 ∧
    ({ image 3 2 8 [] with dst := 8 } : State).usz = 6 ∧ RangesOk { image 3 2 8 [] with dst := 8 } 8 6 ∧
    ¬ RangesMeet { image 3 2 8 [] with dst := 8 } 8 6 := by decide

/-- 95_test_vectors.md 6: one state for each of the four errors. -/
theorem witness_UnpadReportsTheFirstError :
    ¬ DimsOk (image 0 2 5 []) ∧
    (DimsOk (image 0x10000 0x10000 0 []) ∧ (image 0x10000 0x10000 0 []).psz ≠ 0) ∧
    (DimsOk { image 3 2 8 [] with src := 0xFFFFFF00 } ∧ ¬ RangesOk { image 3 2 8 [] with src := 0xFFFFFF00 } 8 6 ∧
      (image 3 2 8 []).psz = 8) ∧
    (DimsOk { image 4 2 8 [] with dst := 0 } ∧ (image 4 2 8 []).psz = 8 ∧
      RangesOk { image 4 2 8 [] with dst := 0 } 8 8 ∧ RangesMeet { image 4 2 8 [] with dst := 0 } 8 8) := by decide

/-- 95_test_vectors.md 6: the destination adjacent to the source. -/
theorem witness_PadInsertsThePadding :
    DimsOk { image 3 2 6 [] with dst := 6 } ∧ ({ image 3 2 6 [] with dst := 6 } : State).psz = 8 ∧
    ({ image 3 2 6 [] with dst := 6 } : State).usz = 6 ∧ padBytes 3 = 1 ∧
    RangesOk { image 3 2 6 [] with dst := 6 } 6 8 ∧ ¬ RangesMeet { image 3 2 6 [] with dst := 6 } 6 8 := by decide

/-- 95_test_vectors.md 2.2 and 6: one state for each of the four errors. -/
theorem witness_PadReportsTheFirstError :
    ¬ DimsOk (image 3 0 0 []) ∧
    (DimsOk (image 3 2 8 []) ∧ (image 3 2 8 []).usz = 6) ∧
    (DimsOk { image 3 2 6 [] with dst := 0xFFFF9 } ∧ ¬ RangesOk { image 3 2 6 [] with dst := 0xFFFF9 } 6 8) ∧
    (DimsOk { image 3 2 6 [] with dst := 5 } ∧ RangesOk { image 3 2 6 [] with dst := 5 } 6 8 ∧
      RangesMeet { image 3 2 6 [] with dst := 5 } 6 8) := by decide

/-- PAD from 0 to 0x40, then UNPAD from 0x40 to 0x80. -/
theorem witness_PadThenUnpadRestoresTheBuffer :
    ∃ t u, exec (.pad .next) (image 3 2 6 [1, 2, 3, 4, 5, 6]) = .next t ∧ t.status.ecode = .ok ∧
      exec .unpad { t with src := 0x40, dst := 0x80, srclen := 8 } = .next u ∧ u.status.ecode = .ok :=
  ⟨_, _, rfl, rfl, rfl, rfl⟩

/-- UNPAD from 0 to 0x40, PAD to 0x80, UNPAD to 0xC0. -/
theorem witness_UnpadPadUnpadKeepsThePixels :
    ∃ t u v, exec .unpad (image 3 2 8 [1, 2, 3, 0xAA, 4, 5, 6, 0xBB]) = .next t ∧ t.status.ecode = .ok ∧
      exec (.pad .zero) { t with src := 0x40, dst := 0x80, srclen := 6 } = .next u ∧ u.status.ecode = .ok ∧
      exec .unpad { u with src := 0x80, dst := 0xC0, srclen := 8 } = .next v ∧ v.status.ecode = .ok :=
  ⟨_, _, _, rfl, rfl, rfl, rfl, rfl, rfl⟩

/-- The ends of the reserved offsets of the register page. -/
theorem witness_RegisterMapReads :
    4 * (busAddr 0x068).toNat = 0x068 ∧ 4 * (busAddr 0xFFC).toNat = 0xFFC := by decide

theorem witness_DerivedRegistersAgreeWithCommands :
    DimsOk (image 1 1 0 []) ∧ DimsOk (image 0x7FFFFFFF 0x7FFFFFFF 0 []) := by decide

/-- The ends of the two ranges: the register page, the word below the window, and the first word past PIXMEM. -/
theorem witness_ReadsOutsideTheWindowNeverStall :
    (busyWith 0 [rd .id]).agenda = .read (busAddr 0x000) :: [] ∧
    4 * (busAddr 0x000).toNat < windowBase ∧ 4 * (busAddr 0xFFFFFC).toNat < windowBase ∧
    0x1000 ≤ 4 * (busAddr 0x1000).toNat ∧
    windowBase + (busyWith 0 []).cfg.memBytes ≤ 4 * (busAddr 0x1100000).toNat := by decide

/-- The eight guarded registers. -/
theorem witness_GuardedWritesAreDroppedWhileBusy :
    (busyWith 0 [wr .cmd 5]).status.busy = true ∧
    (busyWith 0 [wr .cmd 5]).agenda = .write (busAddr 0x00C) 5 0b1111 :: [] ∧
    ∀ off ∈ [0x00C, 0x010, 0x014, 0x018, 0x01C, 0x020, 0x024, 0x028], 4 * (busAddr off).toNat = off := by decide

/-- The four clauses at their ends. -/
theorem witness_IgnoredWritesChangeNothing :
    (idleWith [.write (busAddr 0xFFC) 5 0b0011]).agenda = .write (busAddr 0xFFC) 5 0b0011 :: [] ∧
    4 * (busAddr 0xFFC).toNat < 0x1000 ∧ (0b0011 : BitVec 4) ≠ 0b1111 ∧ 4 * (busAddr 0).toNat = 0 ∧
    0x02C ≤ 4 * (busAddr 0x02C).toNat ∧ 4 * (busAddr 0xFFFFFC).toNat < windowBase ∧
    windowBase + (idleWith []).cfg.memBytes ≤ 4 * (busAddr 0x1100000).toNat := by decide

theorem witness_CmdWriteIssuesTheWord :
    (idleWith [wr .cmd 0xFFFFFFFF]).status.busy = false ∧ 4 * (busAddr 0x00C).toNat = 0x00C ∧
    (idleWith [wr .cmd 0xFFFFFFFF]).agenda = .write (busAddr 0x00C) 0xFFFFFFFF 0b1111 :: [] := by decide

theorem witness_StatusWriteClearsByOnes :
    4 * (busAddr 0x008).toNat = 0x008 ∧ (idleWith [clr]).agenda = .write (busAddr 0x008) 0xE 0b1111 :: [] := by decide

/-- The seven registers. -/
theorem witness_ParameterWritesStore :
    (idleWith [wr .ctrl 1]).agenda = .write (busAddr 0x004) 1 0b1111 :: [] ∧ (idleWith []).status.busy = false ∧
    ∀ off ∈ [0x004, 0x010, 0x014, 0x018, 0x01C, 0x020, 0x024], 4 * (busAddr off).toNat = off := by decide

/-- The first and the last word of the window. -/
theorem witness_WindowWriteStoresTheStrobedLanes :
    (idleWith [wb 6 0xAB]).status.busy = false ∧
    (idleWith [wb 6 0xAB]).agenda = .write (busAddr 0x1000004) 0x00AB0000 0b0100 :: [] ∧
    windowBase ≤ 4 * (busAddr 0x1000000).toNat ∧
    4 * (busAddr 0x10FFFFC).toNat < windowBase + (idleWith []).cfg.memBytes := by decide

theorem witness_WindowReadReturnsLittleEndianWord :
    (idleWith [rw 0xFFFFC]).status.busy = false ∧ (idleWith [rw 0xFFFFC]).agenda = .read (busAddr 0x10FFFFC) :: [] ∧
    windowBase ≤ 4 * (busAddr 0x10FFFFC).toNat ∧
    4 * (busAddr 0x10FFFFC).toNat < windowBase + (idleWith []).cfg.memBytes := by decide

theorem witness_WindowAccessWaitsForCompletion :
    (busyWith 0 [rw 0]).status.busy = true ∧ (busyWith 0 [rw 0]).agenda = .read (busAddr 0x1000000) :: [] ∧
    (busyWith 0 [ww 0 7]).agenda = .write (busAddr 0x1000000) 7 0b1111 :: [] ∧
    windowBase ≤ 4 * (busAddr 0x1000000).toNat ∧
    4 * (busAddr 0x1000000).toNat < windowBase + (busyWith 0 []).cfg.memBytes := by decide

theorem witness_ResetStateHasTheListedValues : Config.suggested.Legal ∧ Config.Legal { memBytes := 4 } := by decide

theorem witness_ResetDiscardsThePendingCommand : (busyWith 5 [.reset]).agenda = .reset :: [] := by decide

theorem witness_IrqIsEnableAndDone :
    (∃ t, (busyWith 5 []).completePending = .next t) ∧ (0x2 : Word).getLsbD 1 = true := ⟨⟨_, rfl⟩, by decide⟩

/-- Each hypothesis of the seven clauses is met by one step. -/
theorem witness_FlagsChangeOnlyByTheirCauses :
    (∃ t, step (busyWith 0x22 []) = .next t ∧ t.status.done = true ∧ t.status.err = true ∧ t.status.busy = false ∧
      t.status.ecode ≠ (busyWith 0x22 []).status.ecode) ∧
    (∃ t, step (idleWith [cmd .nop]) = .next t ∧ t.status.busy = true) ∧
    (∃ t, step (busyWith 0 [wr .width 8]) = .next t ∧ t.status.busywr = true) ∧
    (∃ t, step { idleWith [clr] with
        status := { busy := false, done := true, err := true, busywr := true, ecode := .errDim } } = .next t ∧
      t.status.done = false ∧ t.status.err = false ∧ t.status.busywr = false) :=
  ⟨⟨_, rfl, by decide, by decide, by decide, by decide⟩, ⟨_, rfl, by decide⟩, ⟨_, rfl, by decide⟩,
    _, rfl, by decide, by decide, by decide⟩

theorem witness_CommandsIgnoreTheFlags :
    ∃ t, exec (.pad .zero) (image 3 2 6 [1, 2, 3, 4, 5, 6]) = .next t ∧ t.status.ecode = .ok := ⟨_, rfl, rfl⟩

theorem witness_OperandsHoldWhileBusy :
    (busyWith 0 [wr .width 8]).status.busy = true ∧
    ∃ t, step (busyWith 0 [wr .width 8]) = .next t ∧ t.status.busy = true := ⟨by decide, _, rfl, by decide⟩

theorem witness_IdlePendingIsNeverRead :
    (idleWith [cmd .kclear]).status.busy = false ∧
    ∃ t, step (idleWith [cmd .kclear]) = .next t ∧ t.status.busy = true := ⟨by decide, _, rfl, by decide⟩

/-- The PIXMEM differs outside the source range [0, 6). -/
theorem witness_CommandsReadOnlyTheSourceRange :
    (∀ a, 0 ≤ a → a < 0 + 6 →
      ({ image 3 2 6 [1, 2, 3, 4, 5, 6] with
          pixmem := (image 3 2 6 [1, 2, 3, 4, 5, 6, 7]).pixmem } : State).memRead a =
        (image 3 2 6 [1, 2, 3, 4, 5, 6]).memRead a) ∧
    (image 3 2 6 [1, 2, 3, 4, 5, 6]).usz = 6 ∧
    ∃ t, exec (.pad .zero) (image 3 2 6 [1, 2, 3, 4, 5, 6]) = .next t ∧ t.status.ecode = .ok := by
  refine ⟨fun a _ h => ?_, by decide, _, rfl, rfl⟩
  have ha : a = 0 ∨ a = 1 ∨ a = 2 ∨ a = 3 ∨ a = 4 ∨ a = 5 := by omega
  rcases ha with rfl | rfl | rfl | rfl | rfl | rfl <;> rfl

theorem witness_PendingCommandCompletes :
    (busyWith 3 [rd .status, wr .src 4]).status.busy = true ∧ Turn.reset ∉ (busyWith 3 [rd .status, wr .src 4]).agenda := by
  decide

theorem witness_GuardedWriteRaceAdmitsBothOrders : (busyWith 1 []).status.busy = true := by decide

end Sys2Proof.Tests
end

/-! The invariant of Sys2Proof/Safety.lean: what each shared operation does to it, and from that every step; then the
registers PADB, STRIDE, USIZE and PSIZE as numbers. -/

namespace Sys2Proof.Machine

/-! ### The invariant and the state's operations -/

/-- The invariant speaks of MEM_BYTES, PIXMEM and the kernel file only. -/
theorem State.Inv.congr {s t : State} (h : s.Inv) (hcfg : t.cfg = s.cfg) (hpix : t.pixmem = s.pixmem)
    (hk : t.k = s.k) (hkcount : t.kcount = s.kcount) : t.Inv where
  legal := hcfg ▸ h.legal
  canonical := hpix ▸ h.canonical
  inside := by rw [hpix, hcfg]; exact h.inside
  unpushed := by rw [hk, hkcount]; exact h.unpushed

/-- A PIXMEM that is canonical and inside can take the place of the old one. -/
theorem State.Inv.setPixmem {s : State} (h : s.Inv) {m : Memory} (hwf : Memory.wf m)
    (hin : ∀ c ∈ m, c.1 < s.cfg.memBytes) : ({ s with pixmem := m } : State).Inv where
  legal := h.legal
  canonical := hwf
  inside := hin
  unpushed := h.unpushed

/-- The state after power-on of a legal configuration (10_state.md R49). -/
theorem State.Inv.powerOn {cfg : Config} (h : cfg.Legal) : (State.powerOn cfg).Inv where
  legal := h
  canonical := Memory.wf_nil
  inside := by simp [State.powerOn]
  unpushed := fun i _ => kernel_zero_get i

/-- A reset keeps MEM_BYTES and is otherwise a power-on. -/
theorem State.Inv.applyReset {s : State} (h : s.Inv) : s.applyReset.Inv :=
  (State.Inv.powerOn h.legal).congr rfl rfl rfl rfl

/-- KCLEAR leaves every coefficient 0 (42_filter.md R192). -/
theorem State.Inv.clearKernel {s : State} (h : s.Inv) : s.clearKernel.Inv where
  legal := h.legal
  canonical := h.canonical
  inside := h.inside
  unpushed := fun i _ => kernel_zero_get i

/-- A push advances KCOUNT past the one coefficient it fills; where KCOUNT saturates, no coefficient is unpushed
(42_filter.md R191). -/
theorem State.Inv.pushKernel {s : State} (h : s.Inv) (v : Word) : (s.pushKernel v).Inv where
  legal := h.legal
  canonical := h.canonical
  inside := h.inside
  unpushed := by
    intro i hi
    rw [pushKernel_kcount, BitVec.toNat_ofNat] at hi
    have hpast : s.kcount.toNat < i.val := by omega
    rw [pushKernel_get, if_neg hpast.ne']
    exact h.unpushed i hpast.le

/-! ### The invariant and the host's accesses -/

/-- A register write reaches the kernel file only as a KDATA push. -/
theorem State.writeReg_kernel (s : State) (r : Reg) (v : Word) (strb : BitVec 4) :
    KernelKept s (s.writeReg r v strb) ∨ s.writeReg r v strb = s.pushKernel v := by
  rw [writeReg]
  split
  · split
    · exact .inl ⟨rfl, rfl⟩
    · cases r with
      | kdata => exact .inr rfl
      | _ => exact .inl ⟨rfl, rfl⟩
  · exact .inl ⟨rfl, rfl⟩

theorem State.Inv.writeReg {s : State} (h : s.Inv) (r : Reg) (v : Word) (strb : BitVec 4) :
    (s.writeReg r v strb).Inv := by
  obtain ⟨hk, hkcount⟩ | hpush := s.writeReg_kernel r v strb
  · obtain ⟨hcfg, hpix, -, -, -⟩ := s.writeReg_keeps r v strb
    exact h.congr hcfg hpix hk hkcount
  · rw [hpush]
    exact h.pushKernel v

/-- A window write of a word that lies below MEM_BYTES. -/
theorem State.Inv.writeWindow {s : State} (h : s.Inv) {a : Nat} (ha : a + 4 ≤ s.cfg.memBytes) (v : Word)
    (strb : BitVec 4) : (s.writeWindow a v strb).Inv := by
  obtain ⟨hwf, hmem⟩ := State.writeWindow_wf h.canonical a v strb
  rw [writeWindow_keeps]
  refine h.setPixmem hwf fun c hc => ?_
  obtain hold | ⟨-, hlt⟩ := hmem c hc
  · exact h.inside c hold
  · omega

/-- MEM_BYTES is a multiple of 4, so the whole word of a window access lies below it (00_scope.md R6, 20_memory.md
R73). -/
theorem window_word_inside {cfg : Config} (h : cfg.Legal) {wa : BusAddr} {a : Nat}
    (hw : regionAt cfg.memBytes wa = .window a) : a + 4 ≤ cfg.memBytes := by
  obtain ⟨hmod, -, -⟩ := h
  obtain ⟨hlo, hhi, ha⟩ := regionAt_eq_window hw
  rw [windowBase] at hlo hhi ha
  omega

theorem State.Inv.hostWrite {s : State} (h : s.Inv) (wa : BusAddr) (v : Word) (strb : BitVec 4) :
    (s.hostWrite wa v strb).Inv := by
  rw [State.hostWrite]
  split
  · exact h.writeReg _ v strb
  · next hw => exact h.writeWindow (window_word_inside h.legal hw) v strb
  · exact h

/-! ### The invariant and the completion -/

/-- The effect of a command whose checks pass. -/
theorem State.Inv.effect {s : State} (h : s.Inv) {i : Instr} (hpass : firstError (checksOf i s) = none) :
    (effectOf i s).Inv := by
  have hin : ∀ c ∈ (effectOf i s).pixmem, c.1 < s.cfg.memBytes := fun c hc =>
    (effectOf_inside hpass hc).elim (h.inside c) id
  obtain he | he | ⟨n, f, he⟩ := effectOf_cases i s
  · rw [he]
    exact h
  · rw [he]
    exact h.clearKernel
  · rw [he] at hin ⊢
    exact h.setPixmem (Memory.wf_storeBlock h.canonical _ n f) hin

/-- An error changes STATUS only (60_exceptions.md R256). -/
theorem State.Inv.raise {s : State} (h : s.Inv) (e : ECode) : (s.raise e).Inv := h.congr rfl rfl rfl rfl

theorem State.Inv.exec {s t : State} (h : s.Inv) {i : Instr} (ht : exec i s = .next t) : t.Inv := by
  obtain ⟨e, -, -, rfl⟩ | ⟨hpass, rfl⟩ := exec_cases ht
  · exact h.raise e
  · exact (h.effect hpass).congr rfl rfl rfl rfl

theorem State.Inv.completePending {s t : State} (h : s.Inv) (ht : s.completePending = .next t) : t.Inv := by
  obtain ⟨i, -, hexec⟩ | ⟨-, rfl⟩ := State.completePending_cases ht
  · exact h.exec hexec
  · exact h.raise _

/-- Settles O9, by the kinds of turn a step can take. -/
theorem stepKeepsTheInvariant : Obligations.StepKeepsTheInvariant := by
  intro s t h ht
  have hturn : ∀ rest, ({ s with agenda := rest } : State).Inv := fun _ => h.congr rfl rfl rfl rfl
  obtain ⟨-, ⟨-, rfl⟩ | ⟨rest, -, rfl⟩⟩ | ⟨-, rest, -, hc⟩ | ⟨wa, rest, -, -, rfl⟩ |
    ⟨wa, v, strb, rest, -, -, rfl⟩ | ⟨rest, -, rfl⟩ := step_cases ht
  · exact h
  · exact hturn rest
  · exact (hturn rest).completePending hc
  · exact h.congr rfl rfl rfl rfl
  · exact (hturn rest).hostWrite wa v strb
  · exact (hturn rest).applyReset

/-- Settles O10: both reset states are power-ons of a legal configuration. -/
theorem resetMeetsTheInvariant : Obligations.ResetMeetsTheInvariant :=
  ⟨State.Inv.powerOn (by decide), fun _ h => State.Inv.powerOn h⟩

/-! ### The derived registers as numbers -/

/-- A register that is positive as a signed number reads the same unsigned, below 2^31 (00_scope.md R9). -/
theorem toNat_eq_of_toInt_pos {b : Word} (h : 0 < b.toInt) : b.toNat = b.toInt.toNat ∧ b.toNat < 2 ^ 31 := by
  rw [BitVec.toInt_eq_toNat_cond] at *
  split at h <;> omega

/-- PADB is p of the unsigned WIDTH, whatever its pattern: 4 divides 2^32 (10_state.md R36, 40_padding.md R130). -/
theorem State.padbReg_toNat (s : State) : s.padbReg.toNat = padBytes s.width.toNat := by
  simp only [padbReg, padBytes, BitVec.toNat_umod, BitVec.toNat_sub, BitVec.reduceToNat]
  omega

/-- STRIDE is s of the unsigned WIDTH, modulo 2^32 (10_state.md R37). -/
theorem State.strideReg_toNat (s : State) : s.strideReg.toNat = strideOf s.width.toNat % 2 ^ 32 := by
  rw [strideReg, strideOf, BitVec.toNat_add, padbReg_toNat]

theorem padBytes_lt (w : Nat) : padBytes w < 4 := Nat.mod_lt _ (by decide)

/-- Settles O39: a positive WIDTH is below 2^31, so STRIDE does not wrap and only the two sizes are reduced. -/
theorem derivedRegistersAgreeWithCommands : Obligations.DerivedRegistersAgreeWithCommands := by
  intro s ⟨hw, hh⟩
  obtain ⟨hwidth, hlt⟩ : s.width.toNat = s.w ∧ s.width.toNat < 2 ^ 31 := toNat_eq_of_toInt_pos hw
  have hheight : s.height.toNat = s.h := (toNat_eq_of_toInt_pos hh).1
  have hpad : s.padbReg.toNat = padBytes s.w := by rw [s.padbReg_toNat, hwidth]
  have hstride : s.strideReg.toNat = strideOf s.w := by
    have := padBytes_lt s.w
    rw [s.strideReg_toNat, hwidth, Nat.mod_eq_of_lt]
    rw [strideOf]
    omega
  have husize : s.usizeReg.toNat = s.usz % 2 ^ 32 := by
    rw [State.usizeReg, BitVec.toNat_mul, hwidth, hheight, State.usz]
  have hpsize : s.psizeReg.toNat = s.psz % 2 ^ 32 := by
    rw [State.psizeReg, BitVec.toNat_mul, hstride, hheight, State.psz, State.stride]
  exact ⟨hpad, hstride, husize, hpsize⟩

end Sys2Proof.Machine

/-! Host accesses and completions step by step: what each can do to the registers, STATUS and the kernel file, and what
no command reads. From these the statements of 10_state.md. -/

namespace Sys2Proof.Machine

/-! ### Offsets of the register page -/

theorem Reg.offset_lt_page (r : Reg) : r.offset < 0x1000 := by
  cases r with
  | kernel i => rw [Reg.offset]; omega
  | _ => decide

theorem Reg.offset_aligned (r : Reg) : r.offset % 4 = 0 := by
  cases r with
  | kernel i => rw [Reg.offset]; omega
  | _ => rfl

/-- The host's bus address of a register stands for that register's offset (10_state.md R21). -/
theorem busAddr_offset (r : Reg) : 4 * (busAddr r.offset).toNat = r.offset := by
  have hlt := r.offset_lt_page
  have hmod := r.offset_aligned
  rw [busAddr, BitVec.toNat_ofNat]
  omega

/-- A bus address that reaches a listed register stands for its offset. -/
theorem offset_of_regAt {wa : BusAddr} {r : Reg} (h : regAt (4 * wa.toNat) = r) (hr : r ≠ .reserved) :
    4 * wa.toNat = r.offset := by
  subst h
  exact regAt_eq_offset (Nat.mul_mod_right 4 _) hr

/-- The offsets of the guarded registers (10_state.md R44). -/
theorem Reg.guarded_offset {r : Reg} (h : r.guarded = true) :
    r ≠ .reserved ∧ r.offset ∈ [0x00C, 0x010, 0x014, 0x018, 0x01C, 0x020, 0x024, 0x028] := by
  cases r with
  | cmd | src | dst | width | height | srclen | thr | kdata => decide
  | _ => cases h

/-- The guarded offsets are those of guarded registers (10_state.md R44). -/
theorem Reg.exists_guarded_of_mem {off : Nat} (h : off ∈ [0x00C, 0x010, 0x014, 0x018, 0x01C, 0x020, 0x024, 0x028]) :
    ∃ r : Reg, r.guarded = true ∧ off = r.offset := by
  have hreg : (regAt off).guarded = true ∧ off = (regAt off).offset := by
    revert off
    decide
  exact ⟨regAt off, hreg⟩

/-! ### Reads and stalls -/

/-- A read at a register's offset returns what the register reads as. -/
theorem State.readData_offset (s : State) (r : Reg) : s.readData (busAddr r.offset) = s.readReg r := by
  have hpage := r.offset_lt_page
  rw [readData, regionAt_page (by rwa [busAddr_offset]), busAddr_offset, regAt_offset]

/-- Outside the window nothing stalls (20_memory.md R76). -/
theorem State.stalls_outside {s : State} {wa : BusAddr}
    (h : 4 * wa.toNat < windowBase ∨ windowBase + s.cfg.memBytes ≤ 4 * wa.toNat) : s.stalls wa = false := by
  by_cases hp : 4 * wa.toNat < 0x1000
  · exact stalls_page hp
  · simp [stalls, regionAt_reserved (Nat.not_lt.mp hp) h]

/-- While BUSY = 0 nothing stalls (20_memory.md R76). -/
theorem State.stalls_idle {s : State} (h : s.status.busy = false) (wa : BusAddr) : s.stalls wa = false := by
  simp [stalls, h]

/-- A window access while BUSY = 1 stalls (20_memory.md R76). -/
theorem State.stalls_window {s : State} {wa : BusAddr} (hb : s.status.busy = true) (h : windowBase ≤ 4 * wa.toNat)
    (h' : 4 * wa.toNat < windowBase + s.cfg.memBytes) : s.stalls wa = true := by
  simp [stalls, regionAt_window h h', hb]

/-! ### Writes -/

/-- Everything a register write can do: it is ignored, dropped, or accepted (10_state.md R42, R44). -/
theorem State.writeReg_cases (s : State) (r : Reg) (v : Word) (strb : BitVec 4) :
    s.writeReg r v strb = s ∨
    (strb = 0b1111 ∧ r.guarded = true ∧ s.status.busy = true ∧
      s.writeReg r v strb = { s with status := s.status.writeDropped }) ∨
    (strb = 0b1111 ∧ (r.guarded = true → s.status.busy = false) ∧ s.writeReg r v strb = s.storeReg v r) := by
  rw [writeReg]
  split
  · next hs =>
    split
    · next hg =>
      rw [Bool.and_eq_true] at hg
      exact .inr (.inl ⟨hs, hg.1, hg.2, rfl⟩)
    · next hg => exact .inr (.inr ⟨hs, by simpa using hg, rfl⟩)
  · exact .inl rfl

theorem State.writeReg_of_partial (s : State) (r : Reg) (v : Word) {strb : BitVec 4} (h : strb ≠ 0b1111) :
    s.writeReg r v strb = s := if_neg h

theorem State.writeReg_of_dropped {s : State} {r : Reg} (hg : r.guarded = true) (hb : s.status.busy = true) (v : Word) :
    s.writeReg r v 0b1111 = { s with status := s.status.writeDropped } := by
  simp [writeReg, hg, hb]

theorem State.writeReg_of_accepted {s : State} {r : Reg} (h : r.guarded = true → s.status.busy = false) (v : Word) :
    s.writeReg r v 0b1111 = s.storeReg v r := by
  cases hg : r.guarded with
  | false => simp [writeReg, hg]
  | true => simp [writeReg, h hg]

/-- The read-only and the reserved offsets have no storage a write reaches (10_state.md R41, R43). -/
theorem State.storeReg_of_readOnly (s : State) (v : Word) {r : Reg} (h : r.offset = 0 ∨ 0x02C ≤ r.offset) :
    r.guarded = false ∧ s.storeReg v r = s := by
  cases r with
  | ctrl | status | cmd | src | dst | width | height | srclen | thr | kdata => exact absurd h (by decide)
  | _ => exact ⟨rfl, rfl⟩

/-- A write to a read-only or reserved offset is ignored (10_state.md R41, R43). -/
theorem State.writeReg_of_readOnly (s : State) (v : Word) (strb : BitVec 4) {r : Reg}
    (h : r.offset = 0 ∨ 0x02C ≤ r.offset) : s.writeReg r v strb = s := by
  obtain ⟨hg, hstore⟩ := s.storeReg_of_readOnly v h
  obtain hsame | ⟨-, hg', -, -⟩ | ⟨-, -, hs⟩ := s.writeReg_cases r v strb
  · exact hsame
  · rw [hg] at hg'
    cases hg'
  · rw [hs, hstore]

/-- A write outside the window, past KDATA or to ID, is ignored (10_state.md R41, R43, 20_memory.md R71). -/
theorem State.hostWrite_of_readOnly (s : State) {wa : BusAddr} (v : Word) (strb : BitVec 4)
    (h : 4 * wa.toNat = 0 ∨ 0x02C ≤ 4 * wa.toNat)
    (hout : 4 * wa.toNat < windowBase ∨ windowBase + s.cfg.memBytes ≤ 4 * wa.toNat) :
    s.hostWrite wa v strb = s := by
  by_cases hp : 4 * wa.toNat < 0x1000
  · have hoff : (regAt (4 * wa.toNat)).offset = 0 ∨ 0x02C ≤ (regAt (4 * wa.toNat)).offset := by
      by_cases hr : regAt (4 * wa.toNat) = .reserved
      · rw [hr]
        decide
      · rwa [← offset_of_regAt rfl hr]
    rw [hostWrite, regionAt_page hp]
    exact s.writeReg_of_readOnly v strb hoff
  · rw [hostWrite, regionAt_reserved (Nat.not_lt.mp hp) hout]

/-- Everything a host write can do: a register write, a window write, or nothing (20_memory.md R71). -/
theorem State.hostWrite_cases (s : State) (wa : BusAddr) (v : Word) (strb : BitVec 4) :
    s.hostWrite wa v strb = s.writeReg (regAt (4 * wa.toNat)) v strb ∨
    (windowBase ≤ 4 * wa.toNat ∧ 4 * wa.toNat < windowBase + s.cfg.memBytes ∧
      s.hostWrite wa v strb = s.writeWindow (4 * wa.toNat - windowBase) v strb) ∨
    s.hostWrite wa v strb = s := by
  rw [hostWrite]
  split
  · next hr =>
    obtain ⟨-, rfl⟩ := regionAt_eq_reg hr
    exact .inl rfl
  · next hw =>
    obtain ⟨hlo, hhi, ha⟩ := regionAt_eq_window hw
    exact .inr (.inl ⟨hlo, hhi, by rw [ha]⟩)
  · exact .inr (.inr rfl)

/-- An accepted write to an unguarded register changes CTRL and STATUS at most. -/
theorem State.storeReg_of_unguarded (s : State) (v : Word) {r : Reg} (h : r.guarded = false) :
    ∃ (ie : Bool) (st : Status), s.storeReg v r = { s with ctrlIE := ie, status := st } := by
  cases r with
  | cmd | src | dst | width | height | srclen | thr | kdata => cases h
  | _ => exact ⟨_, _, rfl⟩

/-- While BUSY = 1 a register write changes CTRL and STATUS at most (10_state.md R44). -/
theorem State.writeReg_of_busy {s : State} (hb : s.status.busy = true) (r : Reg) (v : Word) (strb : BitVec 4) :
    ∃ (ie : Bool) (st : Status), s.writeReg r v strb = { s with ctrlIE := ie, status := st } := by
  obtain hsame | ⟨-, -, -, hd⟩ | ⟨-, hidle, hs⟩ := s.writeReg_cases r v strb
  · exact ⟨s.ctrlIE, s.status, hsame⟩
  · exact ⟨s.ctrlIE, s.status.writeDropped, hd⟩
  · rw [hs]
    refine s.storeReg_of_unguarded v (Bool.eq_false_iff.mpr fun hg => ?_)
    rw [hidle hg] at hb
    cases hb

/-- A write the bus completes while BUSY = 1 changes CTRL and STATUS at most (10_state.md R44, 20_memory.md R76). -/
theorem State.hostWrite_of_busy {s : State} (hb : s.status.busy = true) {wa : BusAddr} (hs : s.stalls wa = false)
    (v : Word) (strb : BitVec 4) :
    ∃ (ie : Bool) (st : Status), s.hostWrite wa v strb = { s with ctrlIE := ie, status := st } := by
  obtain hr | ⟨hlo, hhi, -⟩ | hsame := s.hostWrite_cases wa v strb
  · obtain ⟨ie, st, hw⟩ := s.writeReg_of_busy hb (regAt (4 * wa.toNat)) v strb
    exact ⟨ie, st, hr.trans hw⟩
  · rw [State.stalls_window hb hlo hhi] at hs
    cases hs
  · exact ⟨s.ctrlIE, s.status, hsame⟩

/-- Only an accepted KDATA write reaches the kernel file (10_state.md R33, 42_filter.md R201). -/
theorem State.writeReg_changes_kernel {s : State} {r : Reg} {v : Word} {strb : BitVec 4}
    (h : ¬ KernelKept s (s.writeReg r v strb)) : r = .kdata ∧ strb = 0b1111 ∧ s.status.busy = false := by
  obtain hsame | ⟨-, -, -, hd⟩ | ⟨hstrb, hidle, hs⟩ := s.writeReg_cases r v strb
  · exact absurd (by rw [hsame]; exact ⟨rfl, rfl⟩) h
  · exact absurd (by rw [hd]; exact ⟨rfl, rfl⟩) h
  · rw [hs] at h
    cases r with
    | kdata => exact ⟨rfl, hstrb, hidle rfl⟩
    | _ => exact absurd ⟨rfl, rfl⟩ h

/-- Only an accepted KDATA write of the host reaches the kernel file (10_state.md R33, 42_filter.md R201). -/
theorem State.hostWrite_changes_kernel {s : State} {wa : BusAddr} {v : Word} {strb : BitVec 4}
    (h : ¬ KernelKept s (s.hostWrite wa v strb)) :
    4 * wa.toNat = 0x028 ∧ strb = 0b1111 ∧ s.status.busy = false := by
  obtain hr | ⟨-, -, hw⟩ | hsame := s.hostWrite_cases wa v strb
  · rw [hr] at h
    obtain ⟨hkdata, hstrb, hidle⟩ := State.writeReg_changes_kernel h
    exact ⟨offset_of_regAt hkdata (by decide), hstrb, hidle⟩
  · rw [hw, State.writeWindow_keeps] at h
    exact absurd ⟨rfl, rfl⟩ h
  · rw [hsame] at h
    exact absurd ⟨rfl, rfl⟩ h

/-- What a host write can do to STATUS: clear bits of it, issue a command, or drop the write (10_state.md R25, R44,
43_control.md R230). -/
theorem State.hostWrite_status_cases (s : State) (wa : BusAddr) (v : Word) (strb : BitVec 4) :
    (s.hostWrite wa v strb).status = s.status ∨
    (strb = 0b1111 ∧ 4 * wa.toNat = 0x008 ∧ (s.hostWrite wa v strb).status = s.status.cleared v) ∨
    (strb = 0b1111 ∧ 4 * wa.toNat = 0x00C ∧ s.hostWrite wa v strb = s.issue v) ∨
    (strb = 0b1111 ∧ 4 * wa.toNat ∈ [0x00C, 0x010, 0x014, 0x018, 0x01C, 0x020, 0x024, 0x028] ∧
      s.status.busy = true ∧ (s.hostWrite wa v strb).status = s.status.writeDropped) := by
  obtain hr | ⟨-, -, hw⟩ | hsame := s.hostWrite_cases wa v strb
  · rw [hr]
    obtain hsame | ⟨hstrb, hg, hb, hd⟩ | ⟨hstrb, -, hs⟩ := s.writeReg_cases (regAt (4 * wa.toNat)) v strb
    · exact .inl (by rw [hsame])
    · obtain ⟨hlisted, hoff⟩ := Reg.guarded_offset hg
      rw [← offset_of_regAt rfl hlisted] at hoff
      exact .inr (.inr (.inr ⟨hstrb, hoff, hb, by rw [hd]⟩))
    · rw [hs]
      cases hreg : regAt (4 * wa.toNat) with
      | status => exact .inr (.inl ⟨hstrb, offset_of_regAt hreg (by decide), rfl⟩)
      | cmd => exact .inr (.inr (.inl ⟨hstrb, offset_of_regAt hreg (by decide), rfl⟩))
      | _ => exact .inl rfl
  · exact .inl (by rw [hw, State.writeWindow_keeps])
  · exact .inl (by rw [hsame])

/-! ### The step on a host write -/

/-- An accepted full-strobe write. -/
theorem step_store {s : State} {wa : BusAddr} {v : Word} {rest : List Turn}
    (ha : s.agenda = .write wa v 0b1111 :: rest) {r : Reg} (hwa : 4 * wa.toNat = r.offset)
    (hidle : r.guarded = true → s.status.busy = false) :
    step s = .next (({ s with agenda := rest } : State).storeReg v r) := by
  have hpage := r.offset_lt_page
  rw [step_writeReg ha (by rwa [hwa]), hwa, regAt_offset,
    State.writeReg_of_accepted (s := { s with agenda := rest }) hidle]

/-- A guarded full-strobe write while BUSY = 1 (10_state.md R44). -/
theorem step_dropped {s : State} {wa : BusAddr} {v : Word} {rest : List Turn}
    (ha : s.agenda = .write wa v 0b1111 :: rest) {r : Reg} (hwa : 4 * wa.toNat = r.offset)
    (hg : r.guarded = true) (hb : s.status.busy = true) :
    step s = .next { s with agenda := rest, status := s.status.writeDropped } := by
  have hpage := r.offset_lt_page
  rw [step_writeReg ha (by rwa [hwa]), hwa, regAt_offset,
    State.writeReg_of_dropped (s := { s with agenda := rest }) hg hb]

/-- Settles O24, by the push that the accepted write is. -/
theorem kdataPushFillsAndCounts : Obligations.KdataPushFillsAndCounts := by
  intro s wa v rest hidle hwa ha
  refine ⟨_, step_store ha (r := .kdata) hwa fun _ => hidle, fun i => ?_, ?_, rfl⟩
  · exact State.pushKernel_get { s with agenda := rest } v i
  · show (BitVec.ofNat 8 (min (s.kcount.toNat + 1) 255)).toNat = _
    rw [BitVec.toNat_ofNat]
    omega

/-- Settles O41: each of the eight offsets is that of a guarded register. -/
theorem guardedWritesAreDroppedWhileBusy : Obligations.GuardedWritesAreDroppedWhileBusy := by
  intro s wa v rest hb ha hmem
  obtain ⟨r, hg, hwa⟩ := Reg.exists_guarded_of_mem hmem
  exact step_dropped ha hwa hg hb

/-- Settles O42: what is partial is ignored by the strobes, the rest by where it is addressed to. -/
theorem ignoredWritesChangeNothing : Obligations.IgnoredWritesChangeNothing := by
  intro s wa v strb rest ha h
  have hbase : windowBase = 0x1000000 := rfl
  have hout : 4 * wa.toNat < windowBase ∨ windowBase + s.cfg.memBytes ≤ 4 * wa.toNat := by omega
  by_cases hpartial : 4 * wa.toNat < 0x1000 ∧ strb ≠ 0b1111
  · rw [step_writeReg ha hpartial.1, State.writeReg_of_partial _ _ _ hpartial.2]
  · have hro : 4 * wa.toNat = 0 ∨ 0x02C ≤ 4 * wa.toNat := by
      rcases h with h | h | h | h
      · exact absurd h hpartial
      all_goals omega
    rw [step_hostWrite ha (State.stalls_outside hout),
      State.hostWrite_of_readOnly { s with agenda := rest } v strb hro hout]

/-- Settles O43: CMD is guarded, and its accepted write is the issue. -/
theorem cmdWriteIssuesTheWord : Obligations.CmdWriteIssuesTheWord := by
  intro s wa c rest hidle hwa ha
  exact step_store ha (r := .cmd) hwa fun _ => hidle

/-- Settles O44: STATUS is not guarded. -/
theorem statusWriteClearsByOnes : Obligations.StatusWriteClearsByOnes := by
  intro s wa v rest hwa ha
  rw [step_store ha (r := .status) hwa fun hg => absurd hg (by decide)]
  simp only [State.storeReg, Status.cleared, Bool.if_false_left, Bool.decide_eq_true, Bool.and_comm]

/-- Settles O45, register by register: CTRL is not guarded, the others are. -/
theorem parameterWritesStore : Obligations.ParameterWritesStore := by
  intro s wa v rest ha
  refine ⟨fun hwa => step_store ha (r := .ctrl) hwa fun hg => absurd hg (by decide), fun hidle => ?_⟩
  exact ⟨fun hwa => step_store ha (r := .src) hwa fun _ => hidle,
    fun hwa => step_store ha (r := .dst) hwa fun _ => hidle,
    fun hwa => step_store ha (r := .width) hwa fun _ => hidle,
    fun hwa => step_store ha (r := .height) hwa fun _ => hidle,
    fun hwa => step_store ha (r := .srclen) hwa fun _ => hidle,
    fun hwa => step_store ha (r := .thr) hwa fun _ => hidle⟩

/-! ### What the host reads -/

/-- Settles O40: the read is not stalled, and past the register page the offset is reserved. -/
theorem readsOutsideTheWindowNeverStall : Obligations.ReadsOutsideTheWindowNeverStall := by
  intro s wa rest ha hout
  refine ⟨step_hostRead ha (State.stalls_outside hout), fun hpast => ?_⟩
  rw [State.readData, regionAt_reserved hpast hout]

/-- CTRL as a word (10_state.md R23). -/
theorem State.readReg_ctrl (s : State) : s.readReg .ctrl = if s.ctrlIE then 1 else 0 := by
  rw [readReg]
  cases s.ctrlIE <;> rfl

/-- Settles O36, register by register; past MEMSIZE every offset is reserved. -/
theorem registerMapReads : Obligations.RegisterMapReads := by
  intro s
  have hkcount : (s.readData (busAddr 0x02C)).toNat = s.kcount.toNat := by
    rw [show s.readData (busAddr 0x02C) = s.kcount.setWidth 32 from s.readData_offset .kcount]
    exact BitVec.toNat_setWidth_of_le (by decide)
  have hreserved : ∀ wa : BusAddr, 0x068 ≤ 4 * wa.toNat → 4 * wa.toNat ≤ 0xFFC → s.readData wa = 0 := by
    intro wa hlo hhi
    rw [State.readData, regionAt_page (by omega), regAt_of_le hlo]
    rfl
  exact ⟨s.readData_offset .id, (s.readData_offset .ctrl).trans s.readReg_ctrl, s.readData_offset .status,
    s.readData_offset .cmd, s.readData_offset .src, s.readData_offset .dst, s.readData_offset .width,
    s.readData_offset .height, s.readData_offset .srclen, s.readData_offset .thr, s.readData_offset .kdata, hkcount,
    s.readData_offset .padb, s.readData_offset .stride, s.readData_offset .usize, s.readData_offset .psize,
    fun i => s.readData_offset (.kernel i), s.readData_offset .memsize, hreserved⟩

/-- STATUS bit by bit (10_state.md R24). -/
theorem Status.word_getLsbD (st : Status) (n : Nat) : st.word.getLsbD n =
    (if n = 0 then st.busy else if n = 1 then st.done else if n = 2 then st.err else if n = 3 then st.busywr
      else if 8 ≤ n ∧ n ≤ 11 then st.ecode.code.getLsbD (n - 8) else false) := by
  simp only [word, BitVec.getLsbD_append, BitVec.getLsbD_ofBool]
  by_cases hlow : n < 12
  · interval_cases n <;> simp
  · repeat rw [if_neg (by omega)]
    exact BitVec.getLsbD_zero

/-- Settles O37: the layout is STATUS's own, the code values are those of the model. -/
theorem statusWordLayout : Obligations.StatusWordLayout :=
  ⟨fun s n => s.status.word_getLsbD n, rfl, rfl, rfl, rfl, rfl, rfl, rfl, rfl⟩

/-- Settles O38: each register is read at its offset, and PADB is the padding of the unsigned WIDTH. -/
theorem derivedRegistersFollowWidthAndHeight : Obligations.DerivedRegistersFollowWidthAndHeight := by
  intro s
  have hpadb : s.readData (busAddr 0x030) = s.padbReg := s.readData_offset .padb
  have hstride : s.readData (busAddr 0x034) = s.width + s.padbReg := s.readData_offset .stride
  have husize : s.readData (busAddr 0x038) = s.width * s.height := s.readData_offset .usize
  have hpsize : s.readData (busAddr 0x03C) = (s.width + s.padbReg) * s.height := s.readData_offset .psize
  rw [hpadb, hstride, husize, hpsize]
  refine ⟨?_, BitVec.toNat_add .., BitVec.toNat_mul .., BitVec.toNat_mul ..⟩
  rw [s.padbReg_toNat, padBytes]
  omega

/-- Settles O49: the registers of a power-on, and what they read as. -/
theorem resetStateHasTheListedValues : Obligations.ResetStateHasTheListedValues := by
  rintro cfg ⟨-, -, hmax⟩ s
  have hzero : ∀ r : Reg, s.readReg r = 0 → s.readData (busAddr r.offset) = 0 := fun r hr =>
    (s.readData_offset r).trans hr
  have hstatus : s.status.word = 0 := show Status.reset.word = 0 by decide
  have hpadb : s.padbReg = 0 := show (0 - 0 : Word) % 4 = 0 by decide
  have hstride : s.strideReg = 0 := by rw [State.strideReg, hpadb]; rfl
  have hpsize : s.psizeReg = 0 := by rw [State.psizeReg, hstride]; rfl
  have hmemsize : (s.readData (busAddr 0x064)).toNat = cfg.memBytes := by
    rw [show s.readData (busAddr 0x064) = BitVec.ofNat 32 cfg.memBytes from s.readData_offset .memsize,
      BitVec.toNat_ofNat]
    omega
  exact ⟨rfl, s.readData_offset .id, s.readData_offset .ctrl, hzero .status hstatus, rfl, rfl, rfl, rfl, rfl, rfl,
    kernel_zero_get, rfl, rfl, hzero .padb hpadb, hzero .stride hstride, hzero .usize rfl, hzero .psize hpsize, hmemsize,
    rfl, fun _ => rfl⟩

/-! ### What a completion leaves, and what no command reads -/

/-- STATUS after a completion with result code `e` (43_control.md R232). -/
def Status.ended (e : ECode) (st : Status) : Status :=
  { busy := false, done := true, err := st.err || e != .ok, busywr := st.busywr, ecode := e }

@[simp] theorem Status.ended_busy (e : ECode) (st : Status) : (st.ended e).busy = false := rfl
@[simp] theorem Status.ended_done (e : ECode) (st : Status) : (st.ended e).done = true := rfl
@[simp] theorem Status.ended_err (e : ECode) (st : Status) : (st.ended e).err = (st.err || e != .ok) := rfl
@[simp] theorem Status.ended_busywr (e : ECode) (st : Status) : (st.ended e).busywr = st.busywr := rfl
@[simp] theorem Status.ended_ecode (e : ECode) (st : Status) : (st.ended e).ecode = e := rfl

theorem Status.completed_eq_ended (st : Status) : st.completed = st.ended .ok := by
  simp [completed, ended]

theorem Status.raised_eq_ended (st : Status) {e : ECode} (h : e ≠ .ok) : st.raised e = st.ended e := by
  simp [raised, ended, h]

/-- No effect touches STATUS. -/
theorem effectOf_status (i : Instr) (s : State) : (effectOf i s).status = s.status := by cases i <;> rfl

/-- Every command completes. -/
theorem exec_next (i : Instr) (s : State) : ∃ t, exec i s = .next t := by
  rw [exec_eq_runChecked]
  cases h : firstError (checksOf i s) with
  | some e => exact ⟨_, State.runChecked_of_error h⟩
  | none => exact ⟨_, State.runChecked_of_pass h⟩

/-- STATUS after a command: its end, with the code it reports. -/
theorem exec_status {i : Instr} {s t : State} (h : exec i s = .next t) : t.status = s.status.ended t.status.ecode := by
  obtain ⟨e, hne, -, rfl⟩ | ⟨-, rfl⟩ := exec_cases h
  · exact s.status.raised_eq_ended hne
  · rw [State.complete_status, effectOf_status]
    exact s.status.completed_eq_ended

/-- The registers no completion changes (43_control.md R232). -/
theorem exec_engineKeeps {i : Instr} {s t : State} (h : exec i s = .next t) : EngineKeeps s t := by
  obtain ⟨e, -, -, rfl⟩ | ⟨-, rfl⟩ := exec_cases h
  · constructor <;> rfl
  · obtain he | he | ⟨n, f, he⟩ := effectOf_cases i s
    all_goals
      rw [he]
      constructor <;> rfl

/-- KCLEAR alone changes the kernel file (42_filter.md R201). -/
theorem exec_kernelKept {i : Instr} {s t : State} (h : exec i s = .next t) (hi : i ≠ .kclear) : KernelKept s t := by
  obtain ⟨e, -, -, rfl⟩ | ⟨-, rfl⟩ := exec_cases h
  · exact ⟨rfl, rfl⟩
  · cases i with
    | kclear => exact absurd rfl hi
    | _ => exact ⟨rfl, rfl⟩

/-- No check reads STATUS or the agenda (10_state.md R46). -/
theorem checksOf_reframe (i : Instr) (s : State) (st : Status) (l : List Turn) :
    checksOf i { s with status := st, agenda := l } = checksOf i s := by cases i <;> rfl

/-- No effect reads STATUS or the agenda (10_state.md R46). -/
theorem effectOf_reframe (i : Instr) (s : State) (st : Status) (l : List Turn) :
    effectOf i { s with status := st, agenda := l } = { effectOf i s with status := st, agenda := l } := by
  cases i <;> rfl

/-- With another STATUS and another agenda a command ends with the same code, and in the same state but for those two
(10_state.md R46, 60_exceptions.md R257). -/
theorem exec_reframe {i : Instr} {s t : State} (h : exec i s = .next t) (st : Status) (l : List Turn) :
    exec i { s with status := st, agenda := l } =
      .next { t with status := st.ended t.status.ecode, agenda := l } := by
  rw [exec_eq_runChecked, checksOf_reframe]
  obtain ⟨e, hne, he, rfl⟩ | ⟨hpass, rfl⟩ := exec_cases h
  · rw [State.runChecked_of_error he, State.raise_status, Status.raised_ecode, ← st.raised_eq_ended hne]
    rfl
  · rw [State.runChecked_of_pass hpass, effectOf_reframe, State.complete_status, Status.completed_ecode,
      ← st.completed_eq_ended]
    rfl

/-- Settles O53: STATUS after the command is the one thing that differs. -/
theorem commandsIgnoreTheFlags : Obligations.CommandsIgnoreTheFlags := by
  intro i s t st h
  have hkeep := exec_engineKeeps h
  refine ⟨_, exec_reframe h st s.agenda, rfl, ?_⟩
  rw [← hkeep.agenda]

/-! ### The completion of the pending command -/

theorem State.completePending_next (s : State) : ∃ t, s.completePending = .next t := by
  cases hd : decode s.pending with
  | ok i =>
    rw [completePending_of_ok hd]
    exact exec_next i s
  | error e => exact ⟨_, completePending_of_error hd⟩

theorem State.completePending_status {s t : State} (h : s.completePending = .next t) :
    t.status = s.status.ended t.status.ecode := by
  obtain ⟨i, -, hexec⟩ | ⟨-, rfl⟩ := completePending_cases h
  · exact exec_status hexec
  · exact s.status.raised_eq_ended (by decide)

theorem State.completePending_engineKeeps {s t : State} (h : s.completePending = .next t) : EngineKeeps s t := by
  obtain ⟨i, -, hexec⟩ | ⟨-, rfl⟩ := completePending_cases h
  · exact exec_engineKeeps hexec
  · constructor <;> rfl

theorem State.completePending_kernelKept {s t : State} (h : s.completePending = .next t)
    (hd : decode s.pending ≠ .ok .kclear) : KernelKept s t := by
  obtain ⟨i, hi, hexec⟩ | ⟨-, rfl⟩ := completePending_cases h
  · exact exec_kernelKept hexec fun hik => hd (hik ▸ hi)
  · exact ⟨rfl, rfl⟩

/-- The completion with another STATUS and another agenda: the same but for those two. -/
theorem State.completePending_reframe {s t : State} (h : s.completePending = .next t) (st : Status) (l : List Turn) :
    ({ s with status := st, agenda := l } : State).completePending =
      .next { t with status := st.ended t.status.ecode, agenda := l } := by
  obtain ⟨i, hi, hexec⟩ | ⟨⟨e, he⟩, rfl⟩ := completePending_cases h
  · rw [completePending_of_ok (s := { s with status := st, agenda := l }) hi]
    exact exec_reframe hexec st l
  · rw [completePending_of_error (s := { s with status := st, agenda := l }) he, State.raise_status,
      Status.raised_ecode, ← st.raised_eq_ended (by decide)]
    rfl

/-- Settles O28, by the kinds of turn a step can take. -/
theorem kernelChangesOnlyByPushClearReset : Obligations.KernelChangesOnlyByPushClearReset := by
  intro s t ht hk
  obtain ⟨-, ⟨-, rfl⟩ | ⟨rest, -, rfl⟩⟩ | ⟨hb, rest, -, hc⟩ | ⟨wa, rest, -, -, rfl⟩ |
    ⟨wa, v, strb, rest, ha, -, rfl⟩ | ⟨rest, ha, -⟩ := step_cases ht
  · exact absurd ⟨rfl, rfl⟩ hk
  · exact absurd ⟨rfl, rfl⟩ hk
  · have hst := State.completePending_status hc
    have hkclear : decode s.pending = .ok .kclear := by
      by_contra hd
      exact hk (State.completePending_kernelKept (s := { s with agenda := rest }) hc hd)
    exact .inr (.inr ⟨hb, hkclear, by rw [hst]; rfl, by rw [hst]; rfl⟩)
  · exact absurd ⟨rfl, rfl⟩ hk
  · obtain ⟨hwa, rfl, hidle⟩ := State.hostWrite_changes_kernel hk
    exact .inr (.inl ⟨hidle, wa, v, rest, ha, hwa⟩)
  · exact .inl ⟨rest, ha⟩

/-- Settles O54: while a command stays pending a step is a read, or a write that the guard or the map keeps from every
operand. -/
theorem operandsHoldWhileBusy : Obligations.OperandsHoldWhileBusy := by
  intro s t hb ht htb
  obtain ⟨hidle, -⟩ | ⟨-, rest, -, hc⟩ | ⟨wa, rest, -, -, rfl⟩ | ⟨wa, v, strb, rest, -, hs, rfl⟩ |
    ⟨rest, -, rfl⟩ := step_cases ht
  · rw [hb] at hidle
    cases hidle
  · have hst := State.completePending_status hc
    rw [hst] at htb
    cases htb
  · exact ⟨rfl, rfl, rfl, rfl, rfl, rfl, rfl, rfl, rfl, rfl, rfl, rfl⟩
  · obtain ⟨ie, st, hw⟩ := State.hostWrite_of_busy (s := { s with agenda := rest }) hb hs v strb
    rw [hw]
    exact ⟨rfl, rfl, rfl, rfl, rfl, rfl, rfl, rfl, rfl, rfl, rfl, rfl⟩
  · cases htb

/-! ### STATUS -/

/-- Everything a step can do to STATUS: nothing, the end of a completion, reset, or what a host write does. -/
theorem step_status_cases {s t : State} (h : step s = .next t) :
    t.status = s.status ∨
    (s.status.busy = true ∧ t.status = s.status.ended t.status.ecode) ∨
    ((∃ rest, s.agenda = .reset :: rest) ∧ t.status = Status.reset) ∨
    (∃ wa v rest, s.agenda = .write wa v 0b1111 :: rest ∧
      ((4 * wa.toNat = 0x008 ∧ t.status = s.status.cleared v) ∨
        (4 * wa.toNat = 0x00C ∧ t.status = s.status.issued ∧ t.pending = v) ∨
        (4 * wa.toNat ∈ [0x00C, 0x010, 0x014, 0x018, 0x01C, 0x020, 0x024, 0x028] ∧ s.status.busy = true ∧
          t.status = s.status.writeDropped))) := by
  obtain ⟨-, ⟨-, rfl⟩ | ⟨rest, -, rfl⟩⟩ | ⟨hb, rest, -, hc⟩ | ⟨wa, rest, -, -, rfl⟩ |
    ⟨wa, v, strb, rest, ha, -, rfl⟩ | ⟨rest, ha, rfl⟩ := step_cases h
  · exact .inl rfl
  · exact .inl rfl
  · have hst := State.completePending_status hc
    exact .inr (.inl ⟨hb, hst⟩)
  · exact .inl rfl
  · obtain hsame | ⟨rfl, hwa, hst⟩ | ⟨rfl, hwa, hissue⟩ | ⟨rfl, hmem, hb, hst⟩ :=
      State.hostWrite_status_cases { s with agenda := rest } wa v strb
    · exact .inl hsame
    · exact .inr (.inr (.inr ⟨wa, v, rest, ha, .inl ⟨hwa, hst⟩⟩))
    · exact .inr (.inr (.inr ⟨wa, v, rest, ha, .inr (.inl ⟨hwa, by rw [hissue]; rfl, by rw [hissue]; rfl⟩)⟩))
    · exact .inr (.inr (.inr ⟨wa, v, rest, ha, .inr (.inr ⟨hmem, hb, hst⟩)⟩))
  · exact .inr (.inr (.inl ⟨⟨rest, ha⟩, rfl⟩))

/-- Settles O52, by what a step can do to STATUS. -/
theorem flagsChangeOnlyByTheirCauses : Obligations.FlagsChangeOnlyByTheirCauses := by
  intro s t ht
  obtain hsame | ⟨hb, hended⟩ | ⟨hreset, hst⟩ |
    ⟨wa, v, rest, ha, ⟨hwa, hcleared⟩ | ⟨hwa, hissued, hp⟩ | ⟨hmem, hb, hdropped⟩⟩ := step_status_cases ht
  · -- no flag changes
    simp +contextual [hsame]
  · -- the completion clears BUSY, sets DONE, and sets ERR only for an error
    rw [hended]
    simp +contextual [hb]
  · simp [hst, Status.reset, hreset]
  · refine ⟨?_, ?_, ?_, ?_, ?_, ?_, fun _ => .inr ⟨wa, v, rest, ha, hwa⟩⟩ <;> simp +contextual [hcleared]
  · refine ⟨?_, ?_, ?_, fun _ _ => ⟨wa, v, rest, ha, hwa, hp⟩, ?_, ?_, ?_⟩ <;> simp +contextual [hissued]
  · refine ⟨?_, ?_, ?_, ?_, ?_, fun _ _ => ⟨hb, wa, v, rest, ha, hmem⟩, ?_⟩ <;> simp +contextual [hdropped]

/-! ### PENDING while idle -/

/-- `t'` is `t` but for PENDING, and `t` altogether once a command is pending (10_state.md R47). -/
def SameButIdlePending (t t' : State) : Prop :=
  t' = { t with pending := t'.pending } ∧ (t.status.busy = true → t' = t)

theorem SameButIdlePending.refl (t : State) : SameButIdlePending t t := ⟨rfl, fun _ => rfl⟩

/-- While idle any PENDING will do. -/
theorem SameButIdlePending.of_idle {t t' : State} (h : t.status.busy = false)
    (ht : t' = { t with pending := t'.pending }) : SameButIdlePending t t' :=
  ⟨ht, fun hb => absurd hb (by rw [h]; decide)⟩

/-- No read returns PENDING (10_state.md R47). -/
theorem State.readData_setPending (s : State) (c : Word) (wa : BusAddr) :
    ({ s with pending := c } : State).readData wa = s.readData wa := by
  simp only [readData]
  cases regionAt s.cfg.memBytes wa with
  | reg r => cases r <;> rfl
  | window a => rfl
  | reserved => rfl

theorem State.hostRead_setPending {s : State} (h : s.status.busy = false) (c : Word) (wa : BusAddr) :
    SameButIdlePending (s.hostRead wa) (({ s with pending := c } : State).hostRead wa) := by
  refine .of_idle h ?_
  rw [hostRead, readData_setPending s c wa]
  rfl

theorem State.writeLane_setPending (a : Nat) (v : Word) (strb : BitVec 4) (s : State) (c : Word) (j : Nat) :
    State.writeLane a v strb { s with pending := c } j = { State.writeLane a v strb s j with pending := c } := by
  simp only [writeLane]
  split <;> rfl

theorem State.writeWindow_setPending (s : State) (c : Word) (a : Nat) (v : Word) (strb : BitVec 4) :
    ({ s with pending := c } : State).writeWindow a v strb = { s.writeWindow a v strb with pending := c } := by
  simp only [writeWindow, List.foldl_cons, List.foldl_nil, writeLane_setPending]

/-- An accepted write keeps PENDING apart, or writes it afresh (43_control.md R230). -/
theorem State.storeReg_setPending {s : State} (h : s.status.busy = false) (c v : Word) (r : Reg) :
    SameButIdlePending (s.storeReg v r) (({ s with pending := c } : State).storeReg v r) := by
  cases r with
  | cmd => exact .refl _
  | _ => exact .of_idle h rfl

theorem State.writeReg_setPending {s : State} (h : s.status.busy = false) (c : Word) (r : Reg) (v : Word)
    (strb : BitVec 4) :
    SameButIdlePending (s.writeReg r v strb) (({ s with pending := c } : State).writeReg r v strb) := by
  by_cases hstrb : strb = 0b1111
  · subst hstrb
    rw [writeReg_of_accepted fun _ => h, writeReg_of_accepted (s := { s with pending := c }) fun _ => h]
    exact storeReg_setPending h c v r
  · rw [writeReg_of_partial _ _ _ hstrb, writeReg_of_partial _ _ _ hstrb]
    exact .of_idle h rfl

theorem State.hostWrite_setPending {s : State} (h : s.status.busy = false) (c : Word) (wa : BusAddr) (v : Word)
    (strb : BitVec 4) :
    SameButIdlePending (s.hostWrite wa v strb) (({ s with pending := c } : State).hostWrite wa v strb) := by
  simp only [hostWrite]
  cases regionAt s.cfg.memBytes wa with
  | reg r => exact writeReg_setPending h c r v strb
  | window a =>
    show SameButIdlePending (s.writeWindow a v strb) (({ s with pending := c } : State).writeWindow a v strb)
    rw [writeWindow_setPending s c]
    exact .of_idle (by rw [writeWindow_keeps]; exact h) rfl
  | reserved => exact .of_idle h rfl

/-- With nothing on the agenda an idle BPE stays as it is (60_exceptions.md R267). -/
theorem step_idle_nil {s : State} (ha : s.agenda = []) (h : s.status.busy = false) : step s = .next s := by
  simp [step, State.advance, ha, State.engineTurn, h]

/-- The engine's turn while BUSY = 0 has nothing to complete (43_control.md R231). -/
theorem step_idle_engine {s : State} {rest : List Turn} (ha : s.agenda = .engine :: rest)
    (h : s.status.busy = false) : step s = .next { s with agenda := rest } := by
  simp [step, State.advance, ha, State.engineTurn, h]

theorem step_reset {s : State} {rest : List Turn} (ha : s.agenda = .reset :: rest) :
    step s = .next ({ s with agenda := rest } : State).applyReset := by
  simp [step, State.advance, ha]

/-- Settles O55, by the kinds of turn a step can take. -/
theorem idlePendingIsNeverRead : Obligations.IdlePendingIsNeverRead := by
  intro s t c hidle ht
  show ∃ t', step { s with pending := c } = .next t' ∧ SameButIdlePending t t'
  obtain ⟨-, ⟨ha, rfl⟩ | ⟨rest, ha, rfl⟩⟩ | ⟨hb, -⟩ | ⟨wa, rest, ha, hs, rfl⟩ |
    ⟨wa, v, strb, rest, ha, hs, rfl⟩ | ⟨rest, ha, rfl⟩ := step_cases ht
  · exact ⟨_, step_idle_nil ha hidle, .of_idle hidle rfl⟩
  · exact ⟨_, step_idle_engine ha hidle, .of_idle hidle rfl⟩
  · rw [hidle] at hb
    cases hb
  · exact ⟨_, step_hostRead ha hs, State.hostRead_setPending (s := { s with agenda := rest }) hidle c wa⟩
  · exact ⟨_, step_hostWrite ha hs, State.hostWrite_setPending (s := { s with agenda := rest }) hidle c wa v strb⟩
  · exact ⟨_, step_reset ha, .refl _⟩

/-! ### The race of a guarded write and a completion -/

theorem run_two {s t u : State} (h : step s = .next t) (h' : step t = .next u) :
    Host.Core.run core 2 s = .next u := by
  rw [run_succ h, run_succ h']
  rfl

/-- Settles O58: the completion reads neither the agenda nor STATUS, so it is the same before and after the write. -/
theorem guardedWriteRaceAdmitsBothOrders : Obligations.GuardedWriteRaceAdmitsBothOrders := by
  intro s v hb
  obtain ⟨c, hc⟩ := State.completePending_next { s with agenda := [] }
  have hkeep := State.completePending_engineKeeps hc
  have hended := State.completePending_status hc
  have hst : c.status = s.status.ended c.status.ecode := hended
  have hagenda : c.agenda = [] := hkeep.agenda
  have hnil : ({ c with agenda := [] } : State) = c := by rw [← hagenda]
  have hbusy : c.status.busy = false := by rw [hst]; rfl
  refine ⟨c, hc, hbusy, by rw [hst]; rfl, hkeep, fun p hp => ?_⟩
  obtain ⟨r, u⟩ := p
  have hstore : r.guarded = true ∧ u = c.storeReg v r := by
    simp only [List.mem_cons, Prod.mk.injEq, List.not_mem_nil, or_false] at hp
    rcases hp with ⟨rfl, rfl⟩ | ⟨rfl, rfl⟩ | ⟨rfl, rfl⟩ | ⟨rfl, rfl⟩ | ⟨rfl, rfl⟩ | ⟨rfl, rfl⟩ | ⟨rfl, rfl⟩ | ⟨rfl, rfl⟩
    all_goals exact ⟨rfl, rfl⟩
  obtain ⟨hg, rfl⟩ := hstore
  constructor
  · have hdone := State.completePending_reframe hc s.status [wr r v]
    rw [← hst] at hdone
    have hfirst : step { s with agenda := [.engine, wr r v] } = .next { c with agenda := [wr r v] } :=
      (step_engine (s := { s with agenda := [.engine, wr r v] }) rfl hb).trans hdone
    have hsecond := step_store (s := { c with agenda := [wr r v] }) rfl (busAddr_offset r) fun _ => hbusy
    exact (run_two hfirst hsecond).trans (congrArg (fun u : State => Host.Outcome.next (u.storeReg v r)) hnil)
  · have hdone := State.completePending_reframe hc s.status.writeDropped []
    have hdrop : s.status.writeDropped.ended c.status.ecode = { c.status with busywr := true } := by
      rw [hst]
      rfl
    rw [hdrop] at hdone
    have hfirst := step_dropped (s := { s with agenda := [wr r v, .engine] }) rfl (busAddr_offset r) hg hb
    have hsecond :=
      (step_engine (s := { s with agenda := [.engine], status := s.status.writeDropped }) rfl hb).trans hdone
    rw [run_two hfirst hsecond, hagenda]

end Sys2Proof.Machine

/-! Window accesses while idle and while a command is pending, and which PIXMEM bytes a command reads. From these the
statements of 20_memory.md. -/

namespace Sys2Proof.Machine

/-! ### The PIXMEM window -/

theorem State.readData_window (s : State) {wa : BusAddr} (h : windowBase ≤ 4 * wa.toNat)
    (h' : 4 * wa.toNat < windowBase + s.cfg.memBytes) : s.readData wa = s.readWindow (4 * wa.toNat - windowBase) := by
  simp [readData, regionAt_window h h']

theorem State.hostWrite_window (s : State) {wa : BusAddr} (v : Word) (strb : BitVec 4) (h : windowBase ≤ 4 * wa.toNat)
    (h' : 4 * wa.toNat < windowBase + s.cfg.memBytes) :
    s.hostWrite wa v strb = s.writeWindow (4 * wa.toNat - windowBase) v strb := by
  simp [hostWrite, regionAt_window h h']

/-- A byte lane of a window write: the new byte where its strobe is set, the old one elsewhere (20_memory.md R73). -/
theorem State.writeWindow_lane (s : State) (a : Nat) (v : Word) (strb : BitVec 4) {j : Nat} (h : j < 4) :
    (s.writeWindow a v strb).memRead (a + j) =
      if strb.getLsbD j then v.extractLsb' (8 * j) 8 else s.memRead (a + j) := by
  simp [writeWindow_memRead, h]

theorem State.writeWindow_outside (s : State) (a : Nat) (v : Word) (strb : BitVec 4) :
    PixmemKeptOutside s (s.writeWindow a v strb) a 4 := by
  intro x hx
  rw [writeWindow_memRead, if_neg fun ⟨hle, hlt, _⟩ => hx ⟨hle, hlt⟩]

/-- A window read while BUSY = 0 (20_memory.md R73). -/
theorem step_windowRead {s : State} {wa : BusAddr} {rest : List Turn} (hidle : s.status.busy = false)
    (ha : s.agenda = .read wa :: rest) (h : windowBase ≤ 4 * wa.toNat)
    (h' : 4 * wa.toNat < windowBase + s.cfg.memBytes) :
    step s = .next { s with agenda := rest, reads := s.readWindow (4 * wa.toNat - windowBase) :: s.reads } := by
  rw [step_hostRead ha (State.stalls_idle hidle wa), State.hostRead,
    State.readData_window { s with agenda := rest } h h']
  rfl

/-- A window write while BUSY = 0 (20_memory.md R73). -/
theorem step_windowWrite {s : State} {wa : BusAddr} {v : Word} {strb : BitVec 4} {rest : List Turn}
    (hidle : s.status.busy = false) (ha : s.agenda = .write wa v strb :: rest) (h : windowBase ≤ 4 * wa.toNat)
    (h' : 4 * wa.toNat < windowBase + s.cfg.memBytes) :
    step s = .next (({ s with agenda := rest } : State).writeWindow (4 * wa.toNat - windowBase) v strb) := by
  rw [step_hostWrite ha (State.stalls_idle hidle wa), State.hostWrite_window { s with agenda := rest } v strb h h']

/-- Settles O46, by the write of one window word. -/
theorem windowWriteStoresTheStrobedLanes : Obligations.WindowWriteStoresTheStrobedLanes := by
  intro s wa v strb rest hidle ha hlo hhi
  exact ⟨_, step_windowWrite hidle ha hlo hhi, State.writeWindow_keeps _ _ v strb,
    fun _ => State.writeWindow_lane _ _ v strb, State.writeWindow_outside _ _ v strb⟩

/-- Settles O47, by the lanes of one window word. -/
theorem windowReadReturnsLittleEndianWord : Obligations.WindowReadReturnsLittleEndianWord := by
  intro s wa rest hidle ha hlo hhi
  exact ⟨_, step_windowRead hidle ha hlo hhi, fun _ => s.readWindow_lane _⟩

/-- A completion ends BUSY and takes no turn off the agenda. -/
theorem State.completePending_leaves_access (s : State) :
    ∃ t, s.completePending = .next t ∧ t.agenda = s.agenda ∧ t.cfg = s.cfg ∧ t.status.busy = false := by
  obtain ⟨t, ht⟩ := s.completePending_next
  have hkeep := completePending_engineKeeps ht
  exact ⟨t, ht, hkeep.agenda, hkeep.cfg, by rw [completePending_status ht, Status.ended_busy]⟩

/-- Settles O48: the stalled step is the completion, which leaves the access on the agenda of an idle BPE. -/
theorem windowAccessWaitsForCompletion : Obligations.WindowAccessWaitsForCompletion := by
  intro s wa rest hb hlo hhi
  obtain ⟨t, ht, hagenda, hcfg, hidle⟩ := s.completePending_leaves_access
  have hstalls := State.stalls_window hb hlo hhi
  constructor
  · intro ha
    have hwindow : 4 * wa.toNat < windowBase + t.cfg.memBytes := by rwa [hcfg]
    have hread := step_windowRead hidle (hagenda.trans ha) hlo hwindow
    rw [← t.readData_window hlo hwindow] at hread
    exact ⟨t, (step_stalled_read ha hstalls).trans ht, ht, hagenda, hidle, hread⟩
  · intro v strb ha
    have hwrite := step_hostWrite (hagenda.trans ha) (State.stalls_idle hidle wa)
    exact ⟨t, (step_stalled_write ha hstalls).trans ht, ht, hagenda, hidle, hwrite⟩

/-! ### The source range of a command -/

/-- The length A of a command's source range (30_encoding.md R101). -/
def sourceBytes : Instr → State → Nat
  | .nop, _ => 0
  | .thresh _ _, s => s.usz
  | .filter _, s => s.usz
  | .unpad, s => s.psz
  | .pad _, s => s.usz
  | .kclear, _ => 0

/-- The length B of a command's destination range (30_encoding.md R101). -/
def destBytes : Instr → State → Nat
  | .nop, _ => 0
  | .thresh _ _, s => s.usz
  | .filter _, s => s.usz
  | .unpad, s => s.usz
  | .pad _, s => s.psz
  | .kclear, _ => 0

/-- PIXMEM `m` reads as the PIXMEM of `s` on the `n` bytes from SRC on. -/
def SameSource (s : State) (m : Memory) (n : Nat) : Prop :=
  ∀ a, s.src.toNat ≤ a → a < s.src.toNat + n → ({ s with pixmem := m } : State).memRead a = s.memRead a

theorem SameSource.memRead {s : State} {m : Memory} {n : Nat} (h : SameSource s m n) {k : Nat} (hk : k < n) :
    ({ s with pixmem := m } : State).memRead (s.src.toNat + k) = s.memRead (s.src.toNat + k) :=
  h _ (by omega) (by omega)

/-- Row-major offsets lie inside the image. -/
theorem rowMajor_lt {i j w s h : Nat} (hi : i < h) (hj : j < w) (hws : w ≤ s) : i * s + j < s * h := by
  calc i * s + j < i * s + s := by omega
    _ = (i + 1) * s := (Nat.succ_mul i s).symm
    _ ≤ h * s := Nat.mul_le_mul_right s hi
    _ = s * h := Nat.mul_comm h s

theorem State.width_le_stride (s : State) : s.w ≤ s.stride := Nat.le_add_right _ _

/-- An offset inside an image of `n` rows of `w` bytes splits into a row and a column inside it. -/
theorem offset_row_col {w n j : Nat} (h : j < w * n) : j / w < n ∧ j % w < w := by
  have hw : 0 < w := Nat.pos_of_mul_pos_right (Nat.zero_lt_of_lt h)
  exact ⟨Nat.div_lt_of_lt_mul h, Nat.mod_lt j hw⟩

theorem SameSource.threshByte {s : State} {m : Memory} (h : SameSource s m s.usz) (rnd : Rounding) (pol : Polarity)
    {j : Nat} (hj : j < s.usz) : ({ s with pixmem := m } : State).threshByte rnd pol j = s.threshByte rnd pol j :=
  congrArg (thresholdPixel pol (cutOf s.thr rnd)) (h.memRead hj)

theorem SameSource.unpadByte {s : State} {m : Memory} (h : SameSource s m s.psz) {j : Nat} (hj : j < s.usz) :
    ({ s with pixmem := m } : State).unpadByte j = s.unpadByte j := by
  obtain ⟨hrow, hcol⟩ := offset_row_col hj
  have hin : j / s.w * s.stride + j % s.w < s.psz := rowMajor_lt hrow hcol s.width_le_stride
  have hread := h.memRead hin
  rw [← Nat.add_assoc] at hread
  exact hread

theorem SameSource.padFill {s : State} {m : Memory} (h : SameSource s m s.usz) (hw : 0 < s.w) (fill : Fill) (r : Nat) :
    ({ s with pixmem := m } : State).padFill fill r = s.padFill fill r := by
  cases fill with
  | zero => rfl
  | next =>
    by_cases hr : r + 1 < s.h
    · have hin : (r + 1) * s.w + 0 < s.usz := rowMajor_lt hr hw le_rfl
      exact (if_pos hr).trans ((h.memRead hin).trans (if_pos hr).symm)
    · exact (if_neg hr).trans (if_neg hr).symm

/-- Rows of width 0 take no padding (40_padding.md R130). -/
theorem width_pos_of_lt_psz {s : State} {j : Nat} (h : j < s.psz) : 0 < s.w := by
  by_contra hw
  have hw0 : s.w = 0 := Nat.eq_zero_of_not_pos hw
  simp [State.psz, State.stride, strideOf, padBytes, hw0] at h

theorem SameSource.paddedByte {s : State} {m : Memory} (h : SameSource s m s.usz) (fill : Fill) {j : Nat}
    (hj : j < s.psz) :
    ({ s with pixmem := m } : State).paddedByte fill j = s.paddedByte fill j := by
  obtain ⟨hrow, -⟩ := offset_row_col hj
  by_cases hcol : j % s.stride < s.w
  · have hin : j / s.stride * s.w + j % s.stride < s.usz := rowMajor_lt hrow hcol le_rfl
    have hread := h.memRead hin
    rw [← Nat.add_assoc] at hread
    exact (if_pos hcol).trans (hread.trans (if_pos hcol).symm)
  · exact (if_neg hcol).trans ((h.padFill (width_pos_of_lt_psz hj) fill _).trans (if_neg hcol).symm)

/-- A position at most one step outside is clamped to one inside (42_filter.md R194). -/
theorem clampStep_inside {n : Nat} {x : Int} (hn : 0 < n) (hlo : -1 ≤ x) (hhi : x ≤ n) :
    0 ≤ clampStep n x ∧ clampStep n x < n := by
  rw [clampStep]
  split
  · omega
  · split <;> omega

theorem SameSource.sourcePixel {s : State} {m : Memory} (h : SameSource s m s.usz) {ii jj : Int}
    (hi : 0 ≤ ii ∧ ii < s.h) (hj : 0 ≤ jj ∧ jj < s.w) :
    ({ s with pixmem := m } : State).sourcePixel ii jj = s.sourcePixel ii jj := by
  obtain ⟨i, rfl⟩ := Int.eq_ofNat_of_zero_le hi.1
  obtain ⟨j, rfl⟩ := Int.eq_ofNat_of_zero_le hj.1
  have hin : i * s.w + j < s.usz := rowMajor_lt (Int.ofNat_lt.mp hi.2) (Int.ofNat_lt.mp hj.2) le_rfl
  exact h.memRead hin

/-- Every sample at most one step outside the image comes from the source range (42_filter.md R194, R195). -/
theorem SameSource.sample {s : State} {m : Memory} (h : SameSource s m s.usz) (bmode : BMode) {ii jj : Int}
    (hh : 0 < s.h) (hw : 0 < s.w) (hi : -1 ≤ ii ∧ ii ≤ s.h) (hj : -1 ≤ jj ∧ jj ≤ s.w) :
    ({ s with pixmem := m } : State).sample bmode ii jj = s.sample bmode ii jj := by
  cases bmode with
  | replicate => exact h.sourcePixel (clampStep_inside hh hi.1 hi.2) (clampStep_inside hw hj.1 hj.2)
  | zeroPad =>
    by_cases hin : 0 ≤ ii ∧ ii < s.h ∧ 0 ≤ jj ∧ jj < s.w
    · have hpixel := h.sourcePixel ⟨hin.1, hin.2.1⟩ hin.2.2
      exact (if_pos hin).trans (hpixel.trans (if_pos hin).symm)
    · exact (if_neg hin).trans (if_neg hin).symm
  | reservedTwo => rfl
  | reservedThree => rfl

theorem kernelPositions_le {p : Nat × Nat} (h : p ∈ kernelPositions) : p.1 ≤ 2 ∧ p.2 ≤ 2 := by
  revert p
  decide

/-- Every tap of an output pixel inside the image is at most one step outside it (42_filter.md R197). -/
theorem SameSource.filterPixel {s : State} {m : Memory} (h : SameSource s m s.usz) (bmode : BMode) {i j : Nat}
    (hi : i < s.h) (hj : j < s.w) :
    ({ s with pixmem := m } : State).filterPixel bmode i j = s.filterPixel bmode i j := by
  refine congrArg (BitVec.ofInt 8) (List.foldl_ext _ _ _ fun acc p hp => ?_)
  obtain ⟨hrow, hcol⟩ := kernelPositions_le hp
  have hsample := h.sample bmode (ii := i + p.1 - 1) (jj := j + p.2 - 1) (Nat.zero_lt_of_lt hi) (Nat.zero_lt_of_lt hj)
    (by omega) (by omega)
  exact congrArg (fun b : Byte => (acc + b.toNat * s.tapWeight p.1 p.2) % 256) hsample

theorem SameSource.filterByte {s : State} {m : Memory} (h : SameSource s m s.usz) (bmode : BMode) {j : Nat}
    (hj : j < s.usz) : ({ s with pixmem := m } : State).filterByte bmode j = s.filterByte bmode j :=
  h.filterPixel bmode (offset_row_col hj).1 (offset_row_col hj).2

/-! ### A command on another PIXMEM -/

/-- No check reads PIXMEM. -/
theorem checksOf_setPixmem (i : Instr) (s : State) (m : Memory) :
    checksOf i { s with pixmem := m } = checksOf i s := by cases i <;> rfl

/-- PIXMEM decides nothing of an effect but PIXMEM. -/
theorem effectOf_setPixmem (i : Instr) (s : State) (m : Memory) :
    effectOf i { s with pixmem := m } =
      { effectOf i s with pixmem := (effectOf i { s with pixmem := m }).pixmem } := by cases i <;> rfl

/-- Two block writes of the same bytes agree on the block. -/
theorem State.storeRange_memRead_congr {s s' : State} {base n : Nat} {f f' : Nat → Byte}
    (hf : ∀ j, j < n → f' j = f j) {j : Nat} (hj : j < n) :
    (s'.storeRange base n f').memRead (base + j) = (s.storeRange base n f).memRead (base + j) := by
  rw [storeRange_memRead_inside _ _ hj, storeRange_memRead_inside _ _ hj, hf j hj]

/-- The destination range after an effect is a function of the source range (20_memory.md R81). -/
theorem SameSource.destination {i : Instr} {s : State} {m : Memory} (h : SameSource s m (sourceBytes i s)) {j : Nat}
    (hj : j < destBytes i s) :
    (effectOf i { s with pixmem := m }).memRead (s.dst.toNat + j) = (effectOf i s).memRead (s.dst.toNat + j) := by
  cases i with
  | nop => exact absurd hj (Nat.not_lt_zero j)
  | thresh rnd pol => exact State.storeRange_memRead_congr (fun _ => h.threshByte rnd pol) hj
  | filter bmode => exact State.storeRange_memRead_congr (fun _ => h.filterByte bmode) hj
  | unpad => exact State.storeRange_memRead_congr (fun _ => h.unpadByte) hj
  | pad fill => exact State.storeRange_memRead_congr (fun _ => h.paddedByte fill) hj
  | kclear => exact absurd hj (Nat.not_lt_zero j)

/-- Settles O56: the checks do not read PIXMEM, and the effect reads only the source range. -/
theorem commandsReadOnlyTheSourceRange : Obligations.CommandsReadOnlyTheSourceRange := by
  intro i s t m srcBytes dstBytes hsizes hsame ht
  have hbytes : srcBytes = sourceBytes i s ∧ dstBytes = destBytes i s := by
    cases i <;> exact Prod.mk.inj hsizes
  obtain ⟨rfl, rfl⟩ := hbytes
  have hsource : SameSource s m (sourceBytes i s) := hsame
  rw [exec_eq_runChecked, checksOf_setPixmem]
  obtain ⟨e, hne, he, rfl⟩ | ⟨hpass, rfl⟩ := exec_cases ht
  · exact ⟨_, State.runChecked_of_error he, rfl, fun hok => absurd hok hne⟩
  · refine ⟨_, State.runChecked_of_pass hpass, ?_, fun _ j hj => hsource.destination hj⟩
    rw [effectOf_setPixmem]
    rfl

end Sys2Proof.Machine


/-! The encoding of 30_encoding.md: a word is its three fields, the decoder accepts the fields the encoder writes, and
the table of R107 follows. -/

namespace Sys2Proof

/-! ### The fields of a word -/

/-- A word is its RSVD, MODE and OP fields in that order (30_encoding.md R100). -/
theorem word_eq_fields (c : Word) : rsvdField c ++ modeField c ++ opField c = c := by
  rw [rsvdField, modeField, opField, BitVec.extractLsb'_append_extractLsb'_eq_extractLsb' (start₁ := 4) (len₁ := 4) rfl,
    BitVec.extractLsb'_append_extractLsb'_eq_extractLsb' (start₁ := 0) (len₁ := 4) rfl]
  exact BitVec.extractLsb'_eq_self

/-- Two words with the same fields are the same word. -/
theorem word_eq_iff (c d : Word) :
    c = d ↔ rsvdField c = rsvdField d ∧ opField c = opField d ∧ modeField c = modeField d := by
  refine ⟨fun h => h ▸ ⟨rfl, rfl, rfl⟩, fun ⟨hrsvd, hop, hmode⟩ => ?_⟩
  rw [← word_eq_fields c, hrsvd, hop, hmode, word_eq_fields]

/-- What the fields of an instruction's word hold, for every instruction. -/
theorem encode_fields (i : Instr) : Laws.Fields.Statement i := by
  cases i with
  | nop => exact Laws.Fields.nop
  | thresh rnd pol => exact Laws.Fields.thresh rnd pol
  | filter bmode => exact Laws.Fields.filter bmode
  | unpad => exact Laws.Fields.unpad
  | pad fill => exact Laws.Fields.pad fill
  | kclear => exact Laws.Fields.kclear

/-- A word is the encoding of an instruction exactly when its fields are the instruction's. -/
theorem encode_eq_iff (i : Instr) (c : Word) :
    encode i = c ↔ rsvdField c = 0 ∧ opField c = encodeOp i ∧ modeField c = encodeMode i := by
  obtain ⟨hrsvd, hop, hmode⟩ := encode_fields i
  rw [eq_comm, word_eq_iff, hrsvd, hop, hmode]

/-! ### The decoder reads what the encoder writes -/

/-- `i` is a well-formed command with the opcode `op` and the mode bits `md`. -/
def Spells (i : Instr) (op md : BitVec 4) : Prop := i.wf = true ∧ op = encodeOp i ∧ md = encodeMode i

/-- RND and POL are the two low mode bits (30_encoding.md R103). -/
theorem thresh_spells {md : BitVec 4} (h : md.extractLsb' 2 2 = 0) :
    Spells (.thresh (decodeRnd md) (decodePol md)) 1 md := by
  have hbits : ∀ md : BitVec 4, md.extractLsb' 2 2 = 0 → md = encodeThreshMode (decodeRnd md) (decodePol md) := by
    decide
  exact ⟨rfl, rfl, hbits md h⟩

/-- A legal BMODE is the low mode bit (30_encoding.md R104). -/
theorem filter_spells {md : BitVec 4} (h : md.extractLsb' 2 2 = 0) (hone : md.getLsbD 1 = false) :
    Spells (.filter (if md.getLsbD 0 then .zeroPad else .replicate)) 2 md := by
  have hbits : ∀ md : BitVec 4, md.extractLsb' 2 2 = 0 → md.getLsbD 1 = false →
      md = encodeBMode (if md.getLsbD 0 then .zeroPad else .replicate) := by decide
  refine ⟨?_, rfl, hbits md h hone⟩
  cases md.getLsbD 0 <;> rfl

/-- FILL is the low mode bit (30_encoding.md R105). -/
theorem pad_spells {md : BitVec 4} (h : md.extractLsb' 1 3 = 0) : Spells (.pad (decodeFill md)) 4 md := by
  have hbits : ∀ md : BitVec 4, md.extractLsb' 1 3 = 0 → md = encodeFill (decodeFill md) := by decide
  exact ⟨rfl, rfl, hbits md h⟩

/-- NOP, UNPAD and KCLEAR have no mode bits (30_encoding.md R106). -/
theorem decodePlain_spells {i j : Instr} {md : BitVec 4} (h : decodePlain i md = .ok j) (hwf : i.wf = true)
    (hmode : encodeMode i = 0) : Spells j (encodeOp i) md := by
  rw [decodePlain] at h
  split at h
  · next hmd =>
    cases h
    exact ⟨hwf, rfl, hmd.trans hmode.symm⟩
  · cases h

theorem decodeThresh_spells {i : Instr} {md : BitVec 4} (h : decodeThresh md = .ok i) : Spells i 1 md := by
  rw [decodeThresh] at h
  split at h
  · next hhigh =>
    cases h
    exact thresh_spells hhigh
  · cases h

theorem decodeFilter_spells {i : Instr} {md : BitVec 4} (h : decodeFilter md = .ok i) : Spells i 2 md := by
  rw [decodeFilter] at h
  split at h
  · next hhigh =>
    split at h
    · cases h
    · next hone =>
      cases h
      exact filter_spells hhigh (Bool.eq_false_iff.mpr hone)
  · cases h

theorem decodePad_spells {i : Instr} {md : BitVec 4} (h : decodePad md = .ok i) : Spells i 4 md := by
  rw [decodePad] at h
  split at h
  · next hhigh =>
    cases h
    exact pad_spells hhigh
  · cases h

/-- What a word must be for the decoder to accept it: RSVD = 0, and a command for its opcode and mode bits. -/
theorem decode_spells {c : Word} {i : Instr} (h : decode c = .ok i) :
    rsvdField c = 0 ∧ Spells i (opField c) (modeField c) := by
  have opcode : ∀ op : BitVec 4, (opField c).toNat = op.toNat → opField c = op := fun _ => BitVec.eq_of_toNat_eq
  rw [decode] at h
  split at h
  · next hrsvd =>
    refine ⟨hrsvd, ?_⟩
    split at h
    · next hop => exact opcode 0 hop ▸ decodePlain_spells h rfl rfl
    · next hop => exact opcode 1 hop ▸ decodeThresh_spells h
    · next hop => exact opcode 2 hop ▸ decodeFilter_spells h
    · next hop => exact opcode 3 hop ▸ decodePlain_spells h rfl rfl
    · next hop => exact opcode 4 hop ▸ decodePad_spells h
    · next hop => exact opcode 5 hop ▸ decodePlain_spells h rfl rfl
    · cases h
  · cases h

/-- Every well-formed command is decoded from its own word. -/
theorem decode_encode {i : Instr} (h : i.wf = true) : decode (encode i) = .ok i := by
  cases i with
  | nop | unpad | kclear => rfl
  | thresh rnd pol => cases rnd <;> cases pol <;> rfl
  | filter bmode =>
    cases bmode with
    | replicate | zeroPad => rfl
    | reservedTwo | reservedThree => cases h
  | pad fill => cases fill <;> rfl

/-- Settles O2: the accepted fields are those of the command's word, and a well-formed command's word is accepted. -/
theorem decodeExactlyInvertsEncode : Obligations.DecodeExactlyInvertsEncode := by
  intro c i
  constructor
  · intro h
    obtain ⟨hrsvd, hwf, hop, hmode⟩ := decode_spells h
    exact ⟨hwf, (encode_eq_iff i c).mpr ⟨hrsvd, hop, hmode⟩⟩
  · rintro ⟨hwf, rfl⟩
    exact decode_encode hwf

/-! ### The legal words -/

/-- Settles O1: each word is the encoding of the command it is listed with. -/
theorem legalWordsDecode : Obligations.LegalWordsDecode :=
  ⟨decode_encode (i := .nop) rfl, decode_encode (i := .thresh .truncate .inverted) rfl,
    decode_encode (i := .thresh .nearest .inverted) rfl, decode_encode (i := .thresh .truncate .direct) rfl,
    decode_encode (i := .thresh .nearest .direct) rfl, decode_encode (i := .filter .replicate) rfl,
    decode_encode (i := .filter .zeroPad) rfl, decode_encode (i := .unpad) rfl, decode_encode (i := .pad .zero) rfl,
    decode_encode (i := .pad .next) rfl, decode_encode (i := .kclear) rfl⟩

/-- Settles O4: the assembler gives the command, and the command its word. -/
theorem assemblerSpellsTheLegalWords : Obligations.AssemblerSpellsTheLegalWords :=
  ⟨rfl, rfl, rfl, rfl, rfl, rfl, rfl, rfl, rfl, rfl, rfl, rfl⟩

/-- The 11 legal commands (30_encoding.md R107). -/
def legalCommands : List Instr :=
  [.nop, .thresh .truncate .inverted, .thresh .nearest .inverted, .thresh .truncate .direct, .thresh .nearest .direct,
    .filter .replicate, .filter .zeroPad, .unpad, .pad .zero, .pad .next, .kclear]

theorem mem_legalCommands (i : Instr) : i ∈ legalCommands ↔ i.wf = true := by
  cases i with
  | nop | unpad | kclear => decide
  | thresh rnd pol => cases rnd <;> cases pol <;> decide
  | filter bmode => cases bmode <;> decide
  | pad fill => cases fill <;> decide

/-- A word is legal exactly when it is the word of one of the 11 commands (30_encoding.md R107). -/
theorem decode_ok_iff_mem (c : Word) : (∃ i, decode c = .ok i) ↔ c ∈ legalCommands.map encode := by
  simp only [decodeExactlyInvertsEncode c, List.mem_map, mem_legalCommands]

/-! ### Match and mask -/

theorem rsvdField_and (c d : Word) : rsvdField (c &&& d) = rsvdField c &&& rsvdField d := BitVec.extractLsb'_and
theorem modeField_and (c d : Word) : modeField (c &&& d) = modeField c &&& modeField d := BitVec.extractLsb'_and
theorem opField_and (c d : Word) : opField (c &&& d) = opField c &&& opField d := BitVec.extractLsb'_and

/-- A mask that keeps RSVD and OP constrains those two fields whole, and of MODE the bits it keeps. -/
theorem and_mask_eq_iff (c : Word) {mask w : Word} (hrsvd : rsvdField mask = BitVec.allOnes 24)
    (hop : opField mask = BitVec.allOnes 4) :
    c &&& mask = w ↔
      rsvdField c = rsvdField w ∧ opField c = opField w ∧ modeField c &&& modeField mask = modeField w := by
  rw [word_eq_iff, rsvdField_and, opField_and, modeField_and, hrsvd, hop, BitVec.and_allOnes, BitVec.and_allOnes]

/-- A row of the table without free mode bits is the word of its one command. -/
theorem decode_iff_and_allOnes (c : Word) {i : Instr} (h : i.wf = true) :
    decode c = .ok i ↔ c &&& 0xFFFFFFFF = encode i := by
  rw [decodeExactlyInvertsEncode c i, show c &&& 0xFFFFFFFF = c from BitVec.and_allOnes, eq_comm (a := c)]
  exact and_iff_right h

/-- A row of the table, for the commands `mk a` of one opcode. The row's own part is `hmode`: the mode bits that the
mask keeps are those of the match exactly when the whole MODE is that of a well-formed command of the row (R107). -/
theorem decode_row_iff {α : Type} {mk : α → Instr} {mask w : Word} (hrsvd : rsvdField mask = BitVec.allOnes 24)
    (hop : opField mask = BitVec.allOnes 4) (hrsvdw : rsvdField w = 0) (hopw : ∀ a, encodeOp (mk a) = opField w)
    (hmode : ∀ md, (∃ a, (mk a).wf = true ∧ md = encodeMode (mk a)) ↔ md &&& modeField mask = modeField w) (c : Word) :
    (∃ a, decode c = .ok (mk a)) ↔ c &&& mask = w := by
  rw [and_mask_eq_iff c hrsvd hop, ← hmode, hrsvdw]
  simp only [decodeExactlyInvertsEncode c, encode_eq_iff, hopw]
  constructor
  · rintro ⟨a, hwf, hzero, hopc, hmodec⟩
    exact ⟨hzero, hopc, a, hwf, hmodec⟩
  · rintro ⟨hzero, hopc, a, hwf, hmodec⟩
    exact ⟨a, hwf, hzero, hopc, hmodec⟩

/-- THRESH leaves RND and POL free (30_encoding.md R103, R107). -/
theorem thresh_row (c : Word) : (∃ r p, decode c = .ok (.thresh r p)) ↔ c &&& 0xFFFFFFCF = 0x00000001 := by
  have hbits : ∀ md : BitVec 4, md &&& 0xC = 0 → md.extractLsb' 2 2 = 0 := by decide
  rw [← Prod.exists (p := fun a : Rounding × Polarity => decode c = .ok (.thresh a.1 a.2))]
  refine decode_row_iff (mk := fun a : Rounding × Polarity => .thresh a.1 a.2) rfl rfl rfl (fun _ => rfl)
    (fun md => ⟨?_, fun hmd => ?_⟩) c
  · rintro ⟨⟨rnd, pol⟩, -, rfl⟩
    cases rnd <;> cases pol <;> rfl
  · obtain ⟨hwf, -, hmode⟩ := thresh_spells (hbits md hmd)
    exact ⟨(_, _), hwf, hmode⟩

/-- FILTER leaves one bit of BMODE free, the other one being reserved (30_encoding.md R104, R107). -/
theorem filter_row (c : Word) : (∃ b, decode c = .ok (.filter b)) ↔ c &&& 0xFFFFFFEF = 0x00000002 := by
  have hbits : ∀ md : BitVec 4, md &&& 0xE = 0 → md.extractLsb' 2 2 = 0 ∧ md.getLsbD 1 = false := by decide
  refine decode_row_iff (mk := .filter) rfl rfl rfl (fun _ => rfl) (fun md => ⟨?_, fun hmd => ?_⟩) c
  · rintro ⟨bmode, hwf, rfl⟩
    cases bmode with
    | replicate | zeroPad => rfl
    | reservedTwo | reservedThree => cases hwf
  · obtain ⟨hhigh, hone⟩ := hbits md hmd
    obtain ⟨hwf, -, hmode⟩ := filter_spells hhigh hone
    exact ⟨_, hwf, hmode⟩

/-- PAD leaves FILL free (30_encoding.md R105, R107). -/
theorem pad_row (c : Word) : (∃ f, decode c = .ok (.pad f)) ↔ c &&& 0xFFFFFFEF = 0x00000004 := by
  have hbits : ∀ md : BitVec 4, md &&& 0xE = 0 → md.extractLsb' 1 3 = 0 := by decide
  refine decode_row_iff (mk := .pad) rfl rfl rfl (fun _ => rfl) (fun md => ⟨?_, fun hmd => ?_⟩) c
  · rintro ⟨fill, -, rfl⟩
    cases fill <;> rfl
  · obtain ⟨hwf, -, hmode⟩ := pad_spells (hbits md hmd)
    exact ⟨_, hwf, hmode⟩

/-- The match and mask rows of 30_encoding.md R107. -/
def tableRows : List (Word × Word) :=
  [(0x00000000, 0xFFFFFFFF), (0x00000001, 0xFFFFFFCF), (0x00000002, 0xFFFFFFEF), (0x00000003, 0xFFFFFFFF),
    (0x00000004, 0xFFFFFFEF), (0x00000005, 0xFFFFFFFF)]

/-- The mask of every row keeps OP, and the rows' opcodes differ. -/
theorem tableRows_pairwise : tableRows.Pairwise fun x y =>
    opField x.2 = BitVec.allOnes 4 ∧ opField y.2 = BitVec.allOnes 4 ∧ opField x.1 ≠ opField y.1 := by decide

/-- A word in a row has the row's opcode. -/
theorem opField_of_row {c mask w : Word} (h : c &&& mask = w) (hop : opField mask = BitVec.allOnes 4) :
    opField c = opField w := by
  rw [← h, opField_and, hop, BitVec.and_allOnes]

/-- No word is in two rows: it would have two opcodes (30_encoding.md R107). -/
theorem rows_disjoint (c : Word) : tableRows.Pairwise fun x y => ¬ (c &&& x.2 = x.1 ∧ c &&& y.2 = y.1) :=
  tableRows_pairwise.imp fun ⟨hx, hy, hne⟩ ⟨hcx, hcy⟩ =>
    hne ((opField_of_row hcx hx).symm.trans (opField_of_row hcy hy))

/-- Settles O3: the rows one by one, their disjointness by the opcode, and the legal words. -/
theorem legalWordsAreTheTableMatches : Obligations.LegalWordsAreTheTableMatches :=
  ⟨fun c => ⟨decode_iff_and_allOnes c (i := .nop) rfl, thresh_row c, filter_row c,
      decode_iff_and_allOnes c (i := .unpad) rfl, pad_row c, decode_iff_and_allOnes c (i := .kclear) rfl⟩,
    rows_disjoint, decode_ok_iff_mem⟩

end Sys2Proof

/-! ILLEGAL words at the step (30_encoding.md R108), and the host's `loadk` sequence (R110) as a run of the machine. -/

namespace Sys2Proof.Machine

/-! ### The completion of an ILLEGAL word -/

/-- On an empty agenda a pending command completes (70_reset_and_hazards.md R289). -/
theorem step_busy_nil {s : State} (ha : s.agenda = []) (hb : s.status.busy = true) : step s = s.completePending := by
  simp [step, State.advance, ha, State.engineTurn, hb]

/-- Settles O6: each of the four steps is the completion of PENDING, and that of an ILLEGAL word only raises ERR_CMD. -/
theorem illegalWordReportsErrCmd : Obligations.IllegalWordReportsErrCmd := by
  intro s e hb hd st
  have herr : s.completePending = .next { s with status := st } := State.completePending_of_error hd
  refine ⟨fun rest ha => ?_, fun ha => (step_busy_nil ha hb).trans herr, fun wa rest ha hlo hhi => ?_,
    fun wa v strb rest ha hlo hhi => ?_⟩
  · exact (step_engine ha hb).trans (State.completePending_of_error (s := { s with agenda := rest }) hd)
  · exact (step_stalled_read ha (State.stalls_window hb hlo hhi)).trans herr
  · exact (step_stalled_write ha (State.stalls_window hb hlo hhi)).trans herr

/-! ### Runs that play a list of turns -/

/-- From `s` the turns `p` are played one step each and lead to `t`, whatever follows them on the agenda. -/
inductive Plays : List Turn → State → State → Prop
  | nil (s : State) : Plays [] s s
  | cons {x : Turn} {p : List Turn} {s t u : State}
      (hstep : ∀ rest, step { s with agenda := x :: rest } = .next { t with agenda := rest })
      (hplays : Plays p t u) : Plays (x :: p) s u

/-- One turn. -/
theorem Plays.one {x : Turn} {s t : State}
    (hstep : ∀ rest, step { s with agenda := x :: rest } = .next { t with agenda := rest }) : Plays [x] s t :=
  .cons hstep (.nil t)

/-- One list of turns after another. -/
theorem Plays.append {p q : List Turn} {s t u : State} (h : Plays p s t) (h' : Plays q t u) : Plays (p ++ q) s u := by
  induction h with
  | nil => exact h'
  | cons hstep _ ih => exact .cons hstep (ih h')

/-- What a played list of turns means for the machine. -/
theorem Plays.run {p : List Turn} {s t : State} (h : Plays p s t) (rest : List Turn) :
    Host.Core.run core p.length { s with agenda := p ++ rest } = .next { t with agenda := rest } := by
  induction h with
  | nil => rfl
  | cons hstep _ ih => exact (run_succ (hstep _)).trans ih

/-! ### The statements of a host program -/

/-- The agenda is no part of what an accepted write reads or changes. -/
theorem State.storeReg_setAgenda (s : State) (l : List Turn) (v : Word) (r : Reg) :
    ({ s with agenda := l } : State).storeReg v r = { s.storeReg v r with agenda := l } := by cases r <;> rfl

/-- `wr REG, v`, accepted (30_encoding.md R110). -/
theorem plays_wr {s : State} {r : Reg} (h : r.guarded = true → s.status.busy = false) (v : Word) :
    Plays [wr r v] s (s.storeReg v r) := by
  refine .one fun rest => ?_
  rw [← State.storeReg_setAgenda]
  exact step_store rfl (busAddr_offset r) h

/-- `rd REG` changes nothing but the data the host has read (30_encoding.md R110, 10_state.md R45). -/
theorem plays_rd (s : State) (r : Reg) : Plays [rd r] s { s with reads := s.readReg r :: s.reads } := by
  refine .one fun rest => ?_
  have hpage : 4 * (busAddr r.offset).toNat < 0x1000 := by
    rw [busAddr_offset]
    exact r.offset_lt_page
  rw [rd, step_hostRead rfl (State.stalls_page hpage), State.hostRead, State.readData_offset]
  cases r <;> rfl

/-- Any number of polls of one register. -/
theorem plays_polls (r : Reg) (n : Nat) (s : State) :
    ∃ l, Plays (List.replicate n (rd r)) s { s with reads := l } := by
  induction n generalizing s with
  | zero => exact ⟨s.reads, .nil s⟩
  | succ n ih =>
    obtain ⟨l, hl⟩ := ih { s with reads := s.readReg r :: s.reads }
    exact ⟨l, (plays_rd s r).append hl⟩

/-- The engine's turn while a command is pending. -/
theorem plays_engine {s t : State} (hb : s.status.busy = true) (h : s.completePending = .next t) :
    Plays [.engine] s t := by
  refine .one fun rest => ?_
  rw [step_engine (s := { s with agenda := .engine :: rest }) rfl hb]
  have hreframe := State.completePending_reframe h s.status rest
  rwa [← State.completePending_status h] at hreframe

/-- `wait`, for a command that completes in the same way whatever the host has read (30_encoding.md R110). -/
theorem plays_wait {s t : State} (polls : Nat) (hb : s.status.busy = true)
    (h : ∀ l, ({ s with reads := l } : State).completePending = .next { t with reads := l }) :
    ∃ l, Plays (wait polls) s { t with reads := l } := by
  obtain ⟨l, hpolls⟩ := plays_polls .status polls s
  have hengine := plays_engine (s := { s with reads := l }) hb (h l)
  exact ⟨_, hpolls.append (hengine.append (plays_rd _ .status))⟩

/-- `cmd kclear` and its `wait`: the kernel file is cleared, and the host has read STATUS (42_filter.md R192). -/
theorem plays_kclear {s : State} (polls : Nat) (hidle : s.status.busy = false) :
    ∃ l, Plays ([cmd .kclear] ++ wait polls) s
      { (s.issue (encode .kclear)).clearKernel.complete with reads := l } := by
  have hcmd : Plays [cmd .kclear] s (s.issue (encode .kclear)) := plays_wr (r := .cmd) (fun _ => hidle) _
  have hdecode : decode (encode .kclear) = .ok .kclear := decode_encode rfl
  obtain ⟨l, hwait⟩ := plays_wait (s := s.issue (encode .kclear)) (t := (s.issue (encode .kclear)).clearKernel.complete)
    polls rfl fun l => State.completePending_of_ok (s := { s.issue (encode .kclear) with reads := l }) hdecode
  exact ⟨l, hcmd.append hwait⟩

/-- Pushes while BUSY = 0 are all accepted (10_state.md R44, 42_filter.md R191). -/
theorem plays_pushes {s : State} (hidle : s.status.busy = false) (vs : List Word) :
    Plays (vs.map (wr .kdata)) s (vs.foldl State.pushKernel s) := by
  induction vs generalizing s with
  | nil => exact .nil s
  | cons v vs ih => exact (plays_wr (r := .kdata) (fun _ => hidle) v).append (ih hidle)

/-! ### A sequence of pushes -/

/-- Pushes change the kernel file only. -/
theorem foldl_pushKernel_keeps (vs : List Word) (s : State) : vs.foldl State.pushKernel s =
    { s with k := (vs.foldl State.pushKernel s).k, kcount := (vs.foldl State.pushKernel s).kcount } := by
  induction vs generalizing s with
  | nil => rfl
  | cons v vs ih =>
    rw [List.foldl_cons, ih]
    rfl

/-- One push counts one, up to 255 (42_filter.md R191). -/
theorem State.pushKernel_kcount_toNat (s : State) (v : Word) :
    (s.pushKernel v).kcount.toNat = min (s.kcount.toNat + 1) 255 := by
  rw [pushKernel_kcount, BitVec.toNat_ofNat]
  omega

/-- Pushes are counted, up to 255 (42_filter.md R191). -/
theorem foldl_pushKernel_kcount (vs : List Word) (s : State) :
    (vs.foldl State.pushKernel s).kcount.toNat = min (s.kcount.toNat + vs.length) 255 := by
  induction vs generalizing s with
  | nil =>
    have hlt := s.kcount.isLt
    simp only [List.foldl_nil, List.length_nil]
    omega
  | cons v vs ih =>
    rw [List.foldl_cons, ih, State.pushKernel_kcount_toNat, List.length_cons]
    omega

/-- The pushes fill the kernel registers from KCOUNT on, and leave the others (42_filter.md R191). -/
theorem foldl_pushKernel_get (vs : List Word) (s : State) (i : Fin 9) :
    (vs.foldl State.pushKernel s).k.get i =
      if s.kcount.toNat ≤ i.val then vs.getD (i.val - s.kcount.toNat) (s.k.get i) else s.k.get i := by
  induction vs generalizing s with
  | nil => simp
  | cons v vs ih =>
    rw [List.foldl_cons, ih, State.pushKernel_kcount_toNat, State.pushKernel_get]
    rcases lt_trichotomy i.val s.kcount.toNat with hlt | heq | hgt
    · rw [if_neg (by omega), if_neg hlt.ne, if_neg (by omega)]
    · rw [if_neg (by omega), if_pos heq, if_pos heq.ge, heq, Nat.sub_self, List.getD_cons_zero]
    · have hnext : i.val - s.kcount.toNat = i.val - min (s.kcount.toNat + 1) 255 + 1 := by omega
      rw [if_pos (by omega), if_neg hgt.ne', if_pos hgt.le, hnext, List.getD_cons_succ]

/-- Nine pushes into an empty kernel file are the nine kernel registers in order (42_filter.md R191, R192). -/
theorem foldl_pushKernel_nine {s : State} (hcount : s.kcount = 0) (ks : Vector Word 9) :
    ks.toList.foldl State.pushKernel s = { s with k := ks, kcount := 9 } := by
  have hk : (ks.toList.foldl State.pushKernel s).k = ks := by
    refine Vector.ext fun i hi => ?_
    have hget := foldl_pushKernel_get ks.toList s ⟨i, hi⟩
    rw [hcount] at hget
    simpa [Vector.get, hi] using hget
  have hkcount : (ks.toList.foldl State.pushKernel s).kcount = 9 := by
    apply BitVec.eq_of_toNat_eq
    rw [foldl_pushKernel_kcount, hcount, Vector.length_toList]
    rfl
  rw [foldl_pushKernel_keeps, hk, hkcount]

/-- Settles O26: KCLEAR empties the kernel file, and the nine pushes that follow fill it in order. -/
theorem loadkLoadsTheKernel : Obligations.LoadkLoadsTheKernel := by
  intro s polls ks hidle
  obtain ⟨l, hkclear⟩ := plays_kclear polls hidle
  have hpushes := plays_pushes (s := { (s.issue (encode .kclear)).clearKernel.complete with reads := l }) rfl ks.toList
  rw [foldl_pushKernel_nine rfl] at hpushes
  have hrun := (hkclear.append hpushes).run []
  rw [List.append_nil] at hrun
  exact ⟨_, hrun, rfl, rfl, rfl, rfl, fun _ => rfl⟩

end Sys2Proof.Machine

/-! UNPAD and PAD: the checks they share, the bytes they write in rows and columns, and from these the statements of
40_padding.md. -/

namespace Sys2Proof.Machine

/-! ### How a command ends -/

/-- The end of every completion, in the words of 43_control.md R232. -/
theorem exec_ended {i : Instr} {s t : State} (h : exec i s = .next t) : Ended s t t.status.ecode := by
  have hst := exec_status h
  exact ⟨congrArg Status.busy hst, congrArg Status.done hst, rfl, congrArg Status.err hst⟩

/-- A command whose checks all pass has its effect. -/
theorem exec_of_pass {i : Instr} {s : State} (h : firstError (checksOf i s) = none) :
    exec i s = .next (effectOf i s).complete := by
  rw [exec_eq_runChecked, State.runChecked_of_pass h]

/-- A command that reports success had its effect. -/
theorem exec_effect_of_ok {i : Instr} {s t : State} (h : exec i s = .next t) (hok : t.status.ecode = .ok) :
    t = (effectOf i s).complete := by
  obtain ⟨e, hne, -, rfl⟩ | ⟨-, ht⟩ := exec_cases h
  · exact absurd hok hne
  · exact ht

/-- A command with a failing check reports it and does nothing else (60_exceptions.md R255, R256). -/
theorem fails_of_firstError {i : Instr} {s : State} {e : ECode} (h : firstError (checksOf i s) = some e) :
    Fails i s e := by
  have hexec : exec i s = .next (s.raise e) := by rw [exec_eq_runChecked, State.runChecked_of_error h]
  exact ⟨_, hexec, exec_ended hexec, exec_engineKeeps hexec, ⟨rfl, rfl⟩, fun _ => rfl⟩

/-! ### The checks of UNPAD and PAD -/

/-- The checks of a command that reads `a` bytes, requires SRCLEN to be `a`, and writes `b` bytes that may not overlap
them (40_padding.md R134, R136). -/
def resizeChecks (s : State) (a b : Nat) : List (Bool × ECode) :=
  [(s.badDim, .errDim), (s.badLength a, .errPixsize), (s.badRange a b, .errRange), (s.rangesOverlap a b, .errOverlap)]

theorem checksOf_unpad (s : State) : checksOf .unpad s = resizeChecks s s.psz s.usz := rfl

theorem checksOf_pad (fill : Fill) (s : State) : checksOf (.pad fill) s = resizeChecks s s.usz s.psz := rfl

theorem resizeChecks_pass {s : State} {a b : Nat} (hdims : DimsOk s) (hlen : s.srclen.toNat = a)
    (hrange : RangesOk s a b) (hmeet : ¬ RangesMeet s a b) : firstError (resizeChecks s a b) = none := by
  have hoverlap : s.rangesOverlap a b = false := Bool.eq_false_iff.mpr (mt (s.rangesOverlap_eq_true a b).mp hmeet)
  simp [resizeChecks, firstError, s.badDim_eq_false.mpr hdims, (s.badLength_eq_false a).mpr hlen,
    (s.badRange_eq_false a b).mpr hrange, hoverlap]

/-- The four errors in the order of 60_exceptions.md R255, whatever the two lengths are. -/
theorem resizeChecks_fails {i : Instr} {s : State} {a b : Nat} (hi : checksOf i s = resizeChecks s a b) :
    (¬ DimsOk s → Fails i s .errDim) ∧
    (DimsOk s → s.srclen.toNat ≠ a → Fails i s .errPixsize) ∧
    (DimsOk s → s.srclen.toNat = a → ¬ RangesOk s a b → Fails i s .errRange) ∧
    (DimsOk s → s.srclen.toNat = a → RangesOk s a b → RangesMeet s a b → Fails i s .errOverlap) := by
  have hfails {e : ECode} (h : firstError (resizeChecks s a b) = some e) : Fails i s e :=
    fails_of_firstError (hi ▸ h)
  have hdim := s.badDim_eq_false
  have hlength := s.badLength_eq_false a
  have hrange := s.badRange_eq_false a b
  have hoverlap := s.rangesOverlap_eq_true a b
  refine ⟨fun hd => hfails ?_, fun hd hl => hfails ?_, fun hd hl hr => hfails ?_, fun hd hl hr hm => hfails ?_⟩
  · have hbad : s.badDim = true := by simpa using mt hdim.mp hd
    simp [resizeChecks, firstError, hbad]
  · have hbad : s.badLength a = true := by simpa using mt hlength.mp hl
    simp [resizeChecks, firstError, hdim.mpr hd, hbad]
  · have hbad : s.badRange a b = true := by simpa using mt hrange.mp hr
    simp [resizeChecks, firstError, hdim.mpr hd, hlength.mpr hl, hbad]
  · simp [resizeChecks, firstError, hdim.mpr hd, hlength.mpr hl, hrange.mpr hr, hoverlap.mpr hm]

/-- Settles O31: UNPAD's checks are those of a command from PSZ to USZ bytes. -/
theorem unpadReportsTheFirstError : Obligations.UnpadReportsTheFirstError :=
  fun s => resizeChecks_fails (checksOf_unpad s)

/-- Settles O33: PAD's checks are those of a command from USZ to PSZ bytes. -/
theorem padReportsTheFirstError : Obligations.PadReportsTheFirstError :=
  fun s fill => resizeChecks_fails (checksOf_pad fill s)

/-! ### The stride -/

theorem strideOf_mod_four (w : Nat) : strideOf w % 4 = 0 := by
  rw [strideOf, padBytes]
  omega

theorem strideOf_le_of_multiple {w m : Nat} (hm : m % 4 = 0) (hw : w ≤ m) : strideOf w ≤ m := by
  rw [strideOf, padBytes]
  omega

/-- Settles O29: the padding is less than 4 bytes and fills the row to a multiple of 4. -/
theorem strideIsTheLeastMultipleOfFour : Obligations.StrideIsTheLeastMultipleOfFour :=
  ⟨fun w _ => ⟨rfl, strideOf_mod_four w, Nat.le_add_right _ _,
    Nat.add_le_add_left (Nat.le_of_lt_succ (padBytes_lt w)) w, fun _ => strideOf_le_of_multiple⟩,
    fun _ => ⟨rfl, rfl⟩⟩

/-! ### The bytes UNPAD and PAD write -/

/-- A row-major offset gives back its row and its column (40_padding.md R132). -/
theorem rowMajor_div_mod (r : Nat) {c n : Nat} (hc : c < n) : (r * n + c) / n = r ∧ (r * n + c) % n = c := by
  have hoffset : c + n * r = r * n + c := by rw [Nat.mul_comm, Nat.add_comm]
  exact (Nat.div_mod_unique (Nat.zero_lt_of_lt hc)).mpr ⟨hoffset, hc⟩

theorem State.unpadByte_pixel (s : State) (r : Nat) {c : Nat} (hc : c < s.w) :
    s.unpadByte (r * s.w + c) = s.memRead (s.src.toNat + (r * s.stride + c)) := by
  obtain ⟨hrow, hcol⟩ := rowMajor_div_mod r hc
  rw [unpadByte, hrow, hcol, Nat.add_assoc]

theorem State.paddedByte_pixel (s : State) (fill : Fill) (r : Nat) {c : Nat} (hc : c < s.w) :
    s.paddedByte fill (r * s.stride + c) = s.memRead (s.src.toNat + (r * s.w + c)) := by
  obtain ⟨hrow, hcol⟩ := rowMajor_div_mod r (Nat.lt_of_lt_of_le hc s.width_le_stride)
  rw [paddedByte, hrow, hcol, if_pos hc, Nat.add_assoc]

theorem State.paddedByte_padding (s : State) (fill : Fill) (r : Nat) {q : Nat} (hq : q < padBytes s.w) :
    s.paddedByte fill (r * s.stride + (s.w + q)) = s.padFill fill r := by
  have hin : s.w + q < s.stride := Nat.add_lt_add_left hq s.w
  obtain ⟨hrow, hcol⟩ := rowMajor_div_mod r hin
  rw [paddedByte, hrow, hcol, if_neg (by omega)]

/-- padfill(r) with the last row named as h - 1 (40_padding.md R137). -/
theorem State.padFill_eq (s : State) (fill : Fill) (r : Nat) :
    s.padFill fill r = if fill = .next ∧ r < s.h - 1 then s.memRead (s.src.toNat + (r + 1) * s.w) else 0x00 := by
  cases fill with
  | zero => simp [padFill]
  | next => simp [padFill, Nat.lt_sub_iff_add_lt]

theorem effectOf_unpad_pixel (s : State) {r c : Nat} (hr : r < s.h) (hc : c < s.w) :
    (effectOf .unpad s).memRead (s.dst.toNat + (r * s.w + c)) = s.memRead (s.src.toNat + (r * s.stride + c)) := by
  have hin : r * s.w + c < s.usz := rowMajor_lt hr hc le_rfl
  rw [effectOf, State.storeRange_memRead_inside s _ hin, s.unpadByte_pixel r hc]

theorem effectOf_pad_pixel (s : State) (fill : Fill) {r c : Nat} (hr : r < s.h) (hc : c < s.w) :
    (effectOf (.pad fill) s).memRead (s.dst.toNat + (r * s.stride + c)) =
      s.memRead (s.src.toNat + (r * s.w + c)) := by
  have hin : r * s.stride + c < s.psz := rowMajor_lt hr (Nat.lt_of_lt_of_le hc s.width_le_stride) le_rfl
  rw [effectOf, State.storeRange_memRead_inside s _ hin, s.paddedByte_pixel fill r hc]

theorem effectOf_pad_padding (s : State) (fill : Fill) {r q : Nat} (hr : r < s.h) (hq : q < padBytes s.w) :
    (effectOf (.pad fill) s).memRead (s.dst.toNat + (r * s.stride + s.w + q)) = s.padFill fill r := by
  have hin : r * s.stride + (s.w + q) < s.psz := rowMajor_lt hr (Nat.add_lt_add_left hq s.w) le_rfl
  rw [effectOf, Nat.add_assoc (r * s.stride), State.storeRange_memRead_inside s _ hin, s.paddedByte_padding fill r hq]

/-- The frame of a command whose effect is one block write. -/
theorem State.storeRange_complete_keptOutside (s : State) (base n : Nat) (f : Nat → Byte) :
    PixmemKeptOutside s (s.storeRange base n f).complete base n :=
  fun _ => s.storeRange_memRead_outside f

/-- Settles O30: the checks pass, and the effect copies the pixels of the source as it was. -/
theorem unpadStripsThePadding : Obligations.UnpadStripsThePadding := by
  intro s hdims hlen hrange hmeet
  have hexec := exec_of_pass (i := .unpad) (resizeChecks_pass hdims hlen hrange hmeet)
  exact ⟨_, hexec, exec_ended hexec, exec_engineKeeps hexec, exec_kernelKept hexec nofun,
    fun _ _ => effectOf_unpad_pixel s, s.storeRange_complete_keptOutside _ _ _⟩

/-- Settles O32: the checks pass, and the effect writes pixels and padding from the source as it was. -/
theorem padInsertsThePadding : Obligations.PadInsertsThePadding := by
  intro s fill hdims hlen hrange hmeet
  have hexec := exec_of_pass (i := .pad fill) (resizeChecks_pass hdims hlen hrange hmeet)
  exact ⟨_, hexec, exec_ended hexec, exec_engineKeeps hexec, exec_kernelKept hexec nofun,
    fun _ _ => effectOf_pad_pixel s fill,
    fun r _ hr hq => (effectOf_pad_padding s fill hr hq).trans (s.padFill_eq fill r),
    s.storeRange_complete_keptOutside _ _ _⟩

/-! ### The round trips -/

/-- Settles O34: byte j of C is pixel (j / w, j mod w) of B, which PAD copied from byte j of A. -/
theorem padThenUnpadRestoresTheBuffer : Obligations.PadThenUnpadRestoresTheBuffer := by
  intro s t u fill c len hpad hpadOk hunpad hunpadOk j hj
  obtain rfl := exec_effect_of_ok hpad hpadOk
  obtain rfl := exec_effect_of_ok hunpad hunpadOk
  obtain ⟨hrow, hcol⟩ := offset_row_col hj
  have hstripped := effectOf_unpad_pixel
    { (effectOf (.pad fill) s).complete with src := s.dst, dst := c, srclen := len } hrow hcol
  have hinserted := effectOf_pad_pixel s fill hrow hcol
  rw [← Nat.div_add_mod' j s.w]
  exact hstripped.trans hinserted

/-- Settles O35: the second and third commands are the round trip of PAD from the first one's destination. -/
theorem unpadPadUnpadKeepsThePixels : Obligations.UnpadPadUnpadKeepsThePixels := by
  intro s t u v fill c d len len' hfirst _ hpad hpadOk hunpad hunpadOk j hj
  have hkeep := exec_engineKeeps hfirst
  have hsize : t.usz = s.usz := by rw [State.usz, State.w, State.h, hkeep.width, hkeep.height]; rfl
  exact padThenUnpadRestoresTheBuffer { t with src := s.dst, dst := c, srclen := len } u v fill d len'
    hpad hpadOk hunpad hunpadOk j (hj.trans_eq hsize.symm)

end Sys2Proof.Machine

/-! THRESH: the checks it makes, the bytes it writes, the numbers its parameter denotes and the cut they give, and from
these the statements of 41_threshold.md. -/

namespace Sys2Proof.Machine

/-! ### The checks of THRESH -/

/-- The overlap check of THRESH and FILTER passes in place, and where the two ranges are apart
(60_exceptions.md R253). -/
theorem State.badOverlap_eq_false (s : State) :
    s.badOverlap = false ↔ s.dst = s.src ∨ ¬ RangesMeet s s.usz s.usz := by
  rw [Bool.eq_false_iff, Ne, s.badOverlap_eq_true, s.rangesOverlap_eq_true, not_and_or, not_ne_iff]

theorem checksOf_thresh_pass (rnd : Rounding) (pol : Polarity) {s : State} (hthr : ThresholdOk s) (hdims : DimsOk s)
    (hrange : RangesOk s s.usz s.usz) (hplace : s.dst = s.src ∨ ¬ RangesMeet s s.usz s.usz) :
    firstError (checksOf (.thresh rnd pol) s) = none := by
  simp [checksOf, firstError, (validThreshold_iff s.thr).mpr hthr, s.badDim_eq_false.mpr hdims,
    (s.badRange_eq_false _ _).mpr hrange, s.badOverlap_eq_false.mpr hplace]

/-- An invalid t is the first thing THRESH reports (41_threshold.md R165, R167). -/
theorem thresh_fails_errParam (s : State) (rnd : Rounding) (pol : Polarity) (h : validThreshold s.thr = false) :
    Fails (.thresh rnd pol) s .errParam := by
  apply fails_of_firstError
  simp [checksOf, firstError, h]

/-- Settles O15: the checks before the failing one pass, so its error is the first. -/
theorem threshReportsTheFirstError : Obligations.ThreshReportsTheFirstError := by
  intro s rnd pol
  have hvalid := validThreshold_iff s.thr
  have hdim := s.badDim_eq_false
  have hrange := s.badRange_eq_false s.usz s.usz
  refine ⟨fun ht => thresh_fails_errParam s rnd pol (Bool.eq_false_iff.mpr (mt hvalid.mp ht)),
    fun ht hd => fails_of_firstError ?_, fun ht hd hr => fails_of_firstError ?_,
    fun ht hd hr hne hm => fails_of_firstError ?_⟩
  · have hbad : s.badDim = true := by simpa using mt hdim.mp hd
    simp [checksOf, firstError, hvalid.mpr ht, hbad]
  · have hbad : s.badRange s.usz s.usz = true := by simpa using mt hrange.mp hr
    simp [checksOf, firstError, hvalid.mpr ht, hdim.mpr hd, hbad]
  · have hbad : s.badOverlap = true := s.badOverlap_eq_true.mpr ⟨hne, (s.rangesOverlap_eq_true _ _).mpr hm⟩
    simp [checksOf, firstError, hvalid.mpr ht, hdim.mpr hd, hrange.mpr hr, hbad]

/-- Settles O16: the command fails on its parameter, which changes STATUS only. -/
theorem invalidThresholdLeavesPixmem : Obligations.InvalidThresholdLeavesPixmem := by
  intro s rnd pol h
  obtain ⟨t, hexec, hended, -, -, hmem⟩ := thresh_fails_errParam s rnd pol h
  exact ⟨t, hexec, hended.ecode, hended.err.trans (Bool.or_true _), hmem⟩

/-! ### The bytes THRESH writes -/

theorem effectOf_thresh_byte (s : State) (rnd : Rounding) (pol : Polarity) {j : Nat} (hj : j < s.usz) :
    (effectOf (.thresh rnd pol) s).memRead (s.dst.toNat + j) =
      thresholdPixel pol (cutOf s.thr rnd) (s.memRead (s.src.toNat + j)) :=
  s.storeRange_memRead_inside _ hj

/-- Settles O14: the checks pass, and the effect compares each byte of the source as it was with the cut. -/
theorem threshBinarisesTheBuffer : Obligations.ThreshBinarisesTheBuffer := by
  intro s rnd pol hthr hdims hrange hplace
  have hexec := exec_of_pass (checksOf_thresh_pass rnd pol hthr hdims hrange hplace)
  refine ⟨_, hexec, exec_ended hexec, exec_engineKeeps hexec, exec_kernelKept hexec nofun, fun j hj => ?_,
    s.storeRange_complete_keptOutside _ _ _⟩
  rw [State.complete_memRead, effectOf_thresh_byte s rnd pol hj]
  cases pol <;> rfl

/-! ### The comparator, applied once and twice -/

theorem thresholdPixel_binary (pol : Polarity) (cut : Nat) (v : Byte) :
    thresholdPixel pol cut v = 0x00 ∨ thresholdPixel pol cut v = 0xFF := by
  cases pol <;> rw [thresholdPixel] <;> split <;> simp

/-- No pixel exceeds a cut of 255. -/
theorem thresholdPixel_cut_max (pol : Polarity) {cut : Nat} (hcut : cut = 255) (v : Byte) :
    thresholdPixel pol cut v = match pol with | .inverted => 0xFF | .direct => 0x00 := by
  have hv : ¬ cut < v.toNat := by omega
  cases pol <;> rw [thresholdPixel, if_neg hv]

/-- A pixel above the cut becomes 255, which is above it too, and any other becomes 0, which is not. -/
theorem thresholdPixel_direct_twice (cut : Nat) (v : Byte) :
    thresholdPixel .direct cut (thresholdPixel .direct cut v) = thresholdPixel .direct cut v := by
  by_cases hv : cut < v.toNat
  · have hcut : cut < 255 := by omega
    simp [thresholdPixel, hv, hcut]
  · simp [thresholdPixel, hv]

/-- Below 255 the cut separates 0 from 255, and the inverted comparator exchanges them. -/
theorem thresholdPixel_inverted_twice {cut : Nat} (hcut : cut < 255) (v : Byte) :
    thresholdPixel .inverted cut (thresholdPixel .inverted cut v) = ~~~ thresholdPixel .inverted cut v := by
  obtain h | h := thresholdPixel_binary .inverted cut v <;> rw [h] <;> simp [thresholdPixel, hcut]

/-! ### A second pass in place -/

theorem thresh_byte_of_ok {s t : State} {rnd : Rounding} {pol : Polarity} (h : exec (.thresh rnd pol) s = .next t)
    (hok : t.status.ecode = .ok) {j : Nat} (hj : j < s.usz) :
    t.memRead (s.dst.toNat + j) = thresholdPixel pol (cutOf s.thr rnd) (s.memRead (s.src.toNat + j)) := by
  rw [exec_effect_of_ok h hok, State.complete_memRead, effectOf_thresh_byte s rnd pol hj]

/-- After a success in place THRESH succeeds again: the second pass meets the same checks, and compares what the first
one wrote with the same cut. -/
theorem thresh_again_in_place {s t : State} {rnd : Rounding} {pol : Polarity} (h : exec (.thresh rnd pol) s = .next t)
    (hok : t.status.ecode = .ok) (hplace : s.dst = s.src) :
    ∃ u, exec (.thresh rnd pol) t = .next u ∧ u.status.ecode = .ok ∧
      (∀ j, j < s.usz → u.memRead (s.dst.toNat + j) =
        thresholdPixel pol (cutOf s.thr rnd) (t.memRead (s.dst.toNat + j))) ∧
      PixmemKeptOutside t u s.dst.toNat s.usz := by
  obtain ⟨e, hne, -, rfl⟩ | ⟨hpass, rfl⟩ := exec_cases h
  · exact absurd hok hne
  have hexec : exec (.thresh rnd pol) (effectOf (.thresh rnd pol) s).complete = .next _ := exec_of_pass hpass
  refine ⟨_, hexec, rfl, fun j hj => ?_, State.storeRange_complete_keptOutside _ _ _ _⟩
  have hbyte : (effectOf (.thresh rnd pol) (effectOf (.thresh rnd pol) s).complete).complete.memRead (s.dst.toNat + j) =
      thresholdPixel pol (cutOf s.thr rnd) ((effectOf (.thresh rnd pol) s).complete.memRead (s.src.toNat + j)) :=
    thresh_byte_of_ok hexec rfl hj
  rwa [← hplace] at hbyte

/-- Settles O19: a second pass in place applies the comparator to the bytes the first one wrote. -/
theorem threshTwiceInPlace : Obligations.ThreshTwiceInPlace := by
  intro s t rnd pol hexec hok
  have hfirst {j : Nat} (hj : j < s.usz) := thresh_byte_of_ok hexec hok hj
  refine ⟨fun j hj => hfirst hj ▸ thresholdPixel_binary .., fun hplace => ?_⟩
  obtain ⟨u, hagain, hagainOk, hsecond, hframe⟩ := thresh_again_in_place hexec hok hplace
  refine ⟨u, hagain, hagainOk, ?_, ?_, ?_⟩
  · rintro rfl
    refine ⟨fun a => ?_, fun hcut j hj => (hfirst hj).trans (thresholdPixel_cut_max .direct hcut _)⟩
    by_cases ha : s.dst.toNat ≤ a ∧ a < s.dst.toNat + s.usz
    · obtain ⟨j, rfl⟩ := Nat.exists_eq_add_of_le ha.1
      have hj : j < s.usz := by omega
      rw [hsecond j hj, hfirst hj, thresholdPixel_direct_twice]
    · exact hframe a ha
  · rintro rfl hcut j hj
    rw [hsecond j hj, hfirst hj, thresholdPixel_inverted_twice hcut]
  · rintro rfl hcut j hj
    exact ⟨(hfirst hj).trans (thresholdPixel_cut_max .inverted hcut _),
      (hsecond j hj).trans (thresholdPixel_cut_max .inverted hcut _)⟩

/-! ### The number a pattern denotes -/

/-- The integer significand of a binary32 pattern: subnormals have no leading 1 (41_threshold.md R160). -/
def significand (b : Word) : Nat := if floatExponent b = 0 then floatFraction b else 2 ^ 23 + floatFraction b

/-- The exponent field, but 1 for the subnormals, which share the scale of that field (41_threshold.md R160). -/
def scaleField (b : Word) : Nat := max (floatExponent b) 1

/-- |t| of a pattern that is a number t: subnormals and normal numbers in one form. -/
def magnitude (b : Word) : ℚ := significand b * 2 ^ ((scaleField b : ℤ) - 150)

theorem floatExponent_lt (b : Word) : floatExponent b < 2 ^ 8 := BitVec.isLt _

theorem floatFraction_lt (b : Word) : floatFraction b < 2 ^ 23 := BitVec.isLt _

/-- The sign, the exponent and the fraction side by side make the pattern (41_threshold.md R160). -/
theorem word_toNat_fields (b : Word) :
    b.toNat = (if b.getLsbD 31 then 2 ^ 31 else 0) + floatExponent b * 2 ^ 23 + floatFraction b := by
  have hsign : b.getLsbD 31 = decide (2 ^ 31 ≤ b.toNat) := BitVec.msb_eq_decide b
  have hexp : floatExponent b = b.toNat / 2 ^ 23 % 2 ^ 8 := by
    rw [floatExponent, BitVec.extractLsb'_toNat, Nat.shiftRight_eq_div_pow]
  have hfrac : floatFraction b = b.toNat % 2 ^ 23 := by
    rw [floatFraction, BitVec.extractLsb'_toNat, Nat.shiftRight_zero]
  have hlt := b.isLt
  rw [hsign, hexp, hfrac]
  simp only [decide_eq_true_eq]
  split <;> omega

theorem thresholdValue_eq (b : Word) :
    thresholdValue b = if floatExponent b = 255 then none else some (floatSign b * magnitude b) := by
  rw [thresholdValue, magnitude, significand, scaleField]
  split
  · rfl
  · split
    · next h0 => simp [h0, mul_assoc]
    · next h0 =>
      rw [max_eq_left (by omega), mul_assoc]
      push_cast
      rfl

theorem magnitude_nonneg (b : Word) : 0 ≤ magnitude b := by
  rw [magnitude]
  positivity

theorem magnitude_eq_zero_iff (b : Word) : magnitude b = 0 ↔ floatExponent b * 2 ^ 23 + floatFraction b = 0 := by
  have hsig : significand b = 0 ↔ floatExponent b * 2 ^ 23 + floatFraction b = 0 := by
    rw [significand]
    split <;> omega
  rw [← hsig, magnitude, mul_eq_zero, Nat.cast_eq_zero, or_iff_left (zpow_ne_zero _ two_ne_zero)]

/-- While the scale is a negative power, |t| is a quotient of integers. -/
theorem magnitude_eq_div {b : Word} (h : floatExponent b ≤ 150) :
    magnitude b = significand b / 2 ^ (150 - scaleField b) := by
  have hexp : (scaleField b : ℤ) - 150 = -((150 - scaleField b : ℕ) : ℤ) := by
    rw [scaleField]
    omega
  rw [magnitude, hexp, zpow_neg, zpow_natCast, div_eq_mul_inv]

theorem magnitude_le_one_iff_significand {b : Word} (h : floatExponent b ≤ 150) :
    magnitude b ≤ 1 ↔ significand b ≤ 2 ^ (150 - scaleField b) := by
  rw [magnitude_eq_div h, div_le_one (by positivity)]
  exact_mod_cast Iff.rfl

theorem two_le_magnitude {b : Word} (h : 128 ≤ floatExponent b) : 2 ≤ magnitude b := by
  have hsig : (2 ^ 23 : ℚ) ≤ significand b := by
    rw [significand, if_neg (by omega)]
    exact_mod_cast Nat.le_add_right _ _
  have hscale : (2 ^ (-22 : ℤ) : ℚ) ≤ 2 ^ ((scaleField b : ℤ) - 150) := by
    refine zpow_le_zpow_right₀ one_le_two ?_
    rw [scaleField]
    omega
  calc (2 : ℚ) = 2 ^ 23 * 2 ^ (-22 : ℤ) := by norm_num
    _ ≤ magnitude b := mul_le_mul hsig hscale (by positivity) (by positivity)

/-- |t| ≤ 1 exactly when the exponent field is below 127, or is 127 with no fraction. -/
theorem magnitude_le_one_iff (b : Word) :
    magnitude b ≤ 1 ↔ floatExponent b * 2 ^ 23 + floatFraction b ≤ 127 * 2 ^ 23 := by
  have hfrac := floatFraction_lt b
  rcases Nat.lt_trichotomy (floatExponent b) 127 with hexp | hexp | hexp
  · have hsig : significand b ≤ 2 ^ 24 := by
      rw [significand]
      split <;> omega
    have hscale : 2 ^ 24 ≤ 2 ^ (150 - scaleField b) := by
      refine Nat.pow_le_pow_right two_pos ?_
      rw [scaleField]
      omega
    rw [magnitude_le_one_iff_significand (by omega)]
    exact iff_of_true (hsig.trans hscale) (by omega)
  · rw [magnitude_le_one_iff_significand (by omega), significand, scaleField, hexp]
    norm_num
  · have htwo := two_le_magnitude hexp
    exact iff_of_false (by linarith) (by omega)

/-! ### The valid patterns -/

theorem validThreshold_iff_toNat (b : Word) :
    validThreshold b = true ↔ b.toNat ≤ 0x3F800000 ∨ b.toNat = 0x80000000 := by
  rw [validThreshold_iff, ← BitVec.toNat_inj]
  rfl

theorem validThreshold_eq_false_of_toNat {b : Word} (h : 0x3F800000 < b.toNat) (hne : b.toNat ≠ 0x80000000) :
    validThreshold b = false := by
  rw [Bool.eq_false_iff, Ne, validThreshold_iff_toNat]
  omega

/-- The infinities and NaN: their exponent field is above that of 1, and not that of -0. -/
theorem validThreshold_eq_false_of_exponent {b : Word} (h : floatExponent b = 255) : validThreshold b = false := by
  have hfields := word_toNat_fields b
  have hfrac := floatFraction_lt b
  split at hfields <;> exact validThreshold_eq_false_of_toNat (by omega) (by omega)

/-- Without a sign |t| is at most 1; with one it is 0 (41_threshold.md R161). -/
theorem validThreshold_iff_magnitude (b : Word) :
    validThreshold b = true ↔ if b.getLsbD 31 then magnitude b = 0 else magnitude b ≤ 1 := by
  have hfields := word_toNat_fields b
  have hexp := floatExponent_lt b
  have hfrac := floatFraction_lt b
  rw [validThreshold_iff_toNat, magnitude_eq_zero_iff, magnitude_le_one_iff]
  split
  · next hsign => rw [if_pos hsign] at hfields; omega
  · next hsign => rw [if_neg hsign] at hfields; omega

theorem signed_magnitude_unit_iff (b : Word) :
    (0 ≤ floatSign b * magnitude b ∧ floatSign b * magnitude b ≤ 1) ↔ validThreshold b = true := by
  have hnonneg := magnitude_nonneg b
  rw [validThreshold_iff_magnitude, floatSign]
  split
  · constructor
    · rintro ⟨h, -⟩
      linarith
    · intro h
      simp [h]
  · simp [hnonneg]

theorem validThreshold_iff_value (b : Word) :
    validThreshold b = true ↔ ∃ t : ℚ, thresholdValue b = some t ∧ 0 ≤ t ∧ t ≤ 1 := by
  rw [thresholdValue_eq]
  split
  · next h => simp [validThreshold_eq_false_of_exponent h]
  · rw [← signed_magnitude_unit_iff]
    simp

/-- A valid pattern denotes its magnitude: its sign is clear, or the magnitude is 0. -/
theorem value_of_valid {b : Word} {t : ℚ} (h : validThreshold b = true) (ht : thresholdValue b = some t) :
    t = magnitude b := by
  have hmag := (validThreshold_iff_magnitude b).mp h
  have hexp : floatExponent b ≠ 255 := fun he => by simp [validThreshold_eq_false_of_exponent he] at h
  rw [thresholdValue_eq, if_neg hexp] at ht
  injection ht with ht
  rw [← ht, floatSign]
  split
  · next hsign =>
    rw [if_pos hsign] at hmag
    simp [hmag]
  · exact one_mul _

theorem floatExponent_le_of_valid {b : Word} (h : validThreshold b = true) : floatExponent b ≤ 127 := by
  obtain ⟨t, ht, -, hle⟩ := (validThreshold_iff_value b).mp h
  rw [value_of_valid h ht, magnitude_le_one_iff] at hle
  omega

/-- Settles O17: the sign, the exponent field and the fraction decide both the validity and the number denoted. -/
theorem validPatternsDenoteUnitNumbers : Obligations.ValidPatternsDenoteUnitNumbers := by
  refine ⟨validThreshold_iff_value, validThreshold_iff, by decide, ?_, fun b hlo hhi => ?_, fun b hlo hhi => ?_,
    by decide, by decide, fun b hexp _ => validThreshold_eq_false_of_exponent hexp, thresh_fails_errParam⟩
  · rw [thresholdValue_eq, if_neg (by decide), (magnitude_eq_zero_iff _).mpr (by decide), mul_zero]
  · exact validThreshold_eq_false_of_toNat (by omega) (by omega)
  · exact validThreshold_eq_false_of_toNat (by omega) (by omega)

/-! ### The cut -/

/-- What RND adds to 255·t before the floor is taken (41_threshold.md R162). -/
def roundingBias : Rounding → ℚ
  | .truncate => 0
  | .nearest => 1 / 2

/-- The same, scaled by 2 ^ sh (41_threshold.md R163). -/
def scaledBias (sh : Nat) : Rounding → Nat
  | .truncate => 0
  | .nearest => 2 ^ (sh - 1)

theorem scaledBias_div {sh : Nat} (h : 0 < sh) (rnd : Rounding) :
    (scaledBias sh rnd : ℚ) / 2 ^ sh = roundingBias rnd := by
  obtain ⟨n, rfl⟩ := Nat.exists_eq_add_of_lt h
  cases rnd with
  | truncate => simp [scaledBias, roundingBias]
  | nearest =>
    simp only [scaledBias, roundingBias, Nat.add_sub_cancel, Nat.zero_add, pow_succ]
    push_cast
    field_simp

/-- The cases of 41_threshold.md R163 are one quotient: for t = 1 it is 255, and for a subnormal t it is 0. -/
theorem cutOf_eq_div (b : Word) (rnd : Rounding) :
    cutOf b rnd = (255 * significand b + scaledBias (150 - scaleField b) rnd) / 2 ^ (150 - scaleField b) := by
  rw [cutOf]
  split
  · next h1 =>
    subst h1
    cases rnd <;> decide
  · split
    · next h0 =>
      have hfrac := floatFraction_lt b
      simp only [significand, scaleField, h0]
      cases rnd <;> simp [scaledBias] <;> omega
    · next h0 =>
      simp only [significand, scaleField, if_neg h0, max_eq_left (Nat.one_le_iff_ne_zero.mpr h0)]
      cases rnd <;> simp [scaledBias, Nat.shiftRight_eq_div_pow]

/-- The integer form computes the floor of 41_threshold.md R162. -/
theorem cutOf_eq_floor {b : Word} {t : ℚ} (h : validThreshold b = true) (ht : thresholdValue b = some t)
    (rnd : Rounding) : (cutOf b rnd : ℤ) = ⌊255 * t + roundingBias rnd⌋ := by
  have hexp := floatExponent_le_of_valid h
  have hscale : 0 < 150 - scaleField b := by
    rw [scaleField]
    omega
  rw [value_of_valid h ht, magnitude_eq_div (by omega), ← scaledBias_div hscale, ← mul_div_assoc, ← add_div,
    cutOf_eq_div, Int.natCast_div, ← Rat.floor_natCast_div_natCast]
  push_cast
  rfl

theorem floor_natCast_add_roundingBias (n : Nat) (rnd : Rounding) : ⌊(n : ℚ) + roundingBias rnd⌋ = n := by
  have hbias : ⌊roundingBias rnd⌋ = 0 := by
    rw [Int.floor_eq_zero_iff]
    cases rnd <;> norm_num [roundingBias]
  rw [Int.floor_natCast_add, hbias, add_zero]

/-- Halves upward, as a choice between the floor and the ceiling. -/
theorem floor_add_half_eq_ite (x : ℚ) : ⌊x + 1 / 2⌋ = if x - ⌊x⌋ < 1 / 2 then ⌊x⌋ else ⌈x⌉ := by
  have hhalf : x - ⌊x⌋ < 1 / 2 ↔ 2 * Int.fract x < 1 := by
    rw [Int.self_sub_floor, lt_div_iff₀' two_pos]
  rw [← round_eq, round, if_congr hhalf rfl rfl]

/-- Settles O18: the cut is the floor of R162 in both modes, and its bounds are those of the floor for 0 ≤ t ≤ 1. -/
theorem cutIsTheExactFloor : Obligations.CutIsTheExactFloor := by
  intro b t h ht
  have hcut := cutOf_eq_floor h ht
  obtain ⟨t', ht', -, hle⟩ := (validThreshold_iff_value b).mp h
  obtain rfl : t' = t := Option.some.inj (ht'.symm.trans ht)
  have hwhole (n : Nat) (hn : 255 * t' = n) (rnd : Rounding) : cutOf b rnd = n := by
    have hfloor := hcut rnd
    rw [hn, floor_natCast_add_roundingBias] at hfloor
    exact_mod_cast hfloor
  have htrunc := hcut .truncate
  rw [roundingBias, add_zero] at htrunc
  refine ⟨htrunc, hcut .nearest, fun rnd => ?_, fun h1 => hwhole 255 (by rw [h1]; norm_num),
    fun h0 => hwhole 0 (by rw [h0]; norm_num), (hcut .nearest).trans (floor_add_half_eq_ite _)⟩
  have hmax : (cutOf b rnd : ℤ) ≤ 255 :=
    calc (cutOf b rnd : ℤ) = ⌊255 * t' + roundingBias rnd⌋ := hcut rnd
      _ ≤ ⌊((255 : ℕ) : ℚ) + roundingBias rnd⌋ := Int.floor_mono (by push_cast; linarith)
      _ = 255 := floor_natCast_add_roundingBias 255 rnd
  exact_mod_cast hmax

end Sys2Proof.Machine

/-! KCLEAR and FILTER: the kernel file after pushes, the checks FILTER makes and the pixels it writes, and from these the
statements of 42_filter.md. -/

namespace Sys2Proof.Machine

/-! ### KCLEAR and the kernel file -/

/-- KCLEAR has no checks (42_filter.md R192). -/
theorem exec_kclear (s : State) : exec .kclear s = .next s.clearKernel.complete :=
  exec_of_pass (i := .kclear) rfl

/-- What KCLEAR leaves, from its result (42_filter.md R192). -/
theorem eq_of_exec_kclear {s t : State} (h : exec .kclear s = .next t) : t = s.clearKernel.complete :=
  (Host.Outcome.next.inj ((exec_kclear s).symm.trans h)).symm

/-- Settles O13: KCLEAR clears the kernel file and completes, and touches no PIXMEM byte. -/
theorem kclearClearsTheKernelFile : Obligations.KclearClearsTheKernelFile := by
  intro s
  have hexec := exec_kclear s
  exact ⟨_, hexec, exec_ended hexec, exec_engineKeeps hexec, kernel_zero_get, rfl, fun _ => rfl⟩

/-- Settles O25: the pushes start from an empty kernel file. -/
theorem pushSequenceFillsTheKernel : Obligations.PushSequenceFillsTheKernel := by
  intro s t vs h
  obtain rfl := eq_of_exec_kclear h
  have hcount : s.clearKernel.complete.kcount.toNat = 0 := rfl
  refine ⟨?_, fun i => ?_⟩
  · rw [foldl_pushKernel_kcount, hcount, Nat.zero_add]
  · have hzero : s.clearKernel.complete.k.get i = 0 := kernel_zero_get i
    rw [foldl_pushKernel_get, hcount, if_pos (Nat.zero_le _), Nat.sub_zero, hzero]

/-! ### The checks of FILTER -/

theorem checksOf_filter_pass {s : State} {bmode : BMode} (hlegal : bmode.legal = true) (hcount : s.kcount = 9)
    (hdims : DimsOk s) (hrange : RangesOk s s.usz s.usz) (hplace : s.dst = s.src ∨ ¬ RangesMeet s s.usz s.usz) :
    firstError (checksOf (.filter bmode) s) = none := by
  simp [checksOf, firstError, hlegal, hcount, s.badDim_eq_false.mpr hdims, (s.badRange_eq_false _ _).mpr hrange,
    s.badOverlap_eq_false.mpr hplace]

/-- A KCOUNT other than 9 is the first thing a legal FILTER reports (42_filter.md R197, R200). -/
theorem filter_fails_errKsize {s : State} {bmode : BMode} (hlegal : bmode.legal = true) (hcount : s.kcount ≠ 9) :
    Fails (.filter bmode) s .errKsize := by
  have hbad : (s.kcount != 9) = true := bne_iff_ne.mpr hcount
  apply fails_of_firstError
  simp only [checksOf, firstError, hlegal, hbad, Bool.not_true, Bool.false_eq_true, if_false, if_true]

/-- Settles O21: the checks before the failing one pass, so its error is the first. -/
theorem filterReportsTheFirstError : Obligations.FilterReportsTheFirstError := by
  intro s bmode
  have hdim := s.badDim_eq_false
  have hrange := s.badRange_eq_false s.usz s.usz
  refine ⟨fun hl => fails_of_firstError ?_, filter_fails_errKsize, fun hl hc hd => fails_of_firstError ?_,
    fun hl hc hd hr => fails_of_firstError ?_, fun hl hc hd hr hne hm => fails_of_firstError ?_⟩
  · simp [checksOf, firstError, hl]
  · have hbad : s.badDim = true := by simpa using mt hdim.mp hd
    simp [checksOf, firstError, hl, hc, hbad]
  · have hbad : s.badRange s.usz s.usz = true := by simpa using mt hrange.mp hr
    simp [checksOf, firstError, hl, hc, hdim.mpr hd, hbad]
  · have hbad : s.badOverlap = true := s.badOverlap_eq_true.mpr ⟨hne, (s.rangesOverlap_eq_true _ _).mpr hm⟩
    simp [checksOf, firstError, hl, hc, hdim.mpr hd, hrange.mpr hr, hbad]

/-- Settles O27: neither 8 nor 10 pushes make KCOUNT 9, and neither KCLEAR nor a push writes PIXMEM. -/
theorem wrongKernelSizeIsRejected : Obligations.WrongKernelSizeIsRejected := by
  intro s t vs bmode hlegal hlen h
  obtain ⟨hpushed, -⟩ := pushSequenceFillsTheKernel s t vs h
  have hcount : (vs.foldl State.pushKernel t).kcount ≠ 9 := by
    intro hnine
    have hvalue : min vs.length 255 = 9 := hpushed.symm.trans (congrArg BitVec.toNat hnine)
    omega
  obtain ⟨u, hexec, hended, -, -, hmem⟩ := filter_fails_errKsize hlegal hcount
  refine ⟨u, hexec, hended.ecode, hended.err.trans (Bool.or_true _), fun a => ?_⟩
  rw [hmem a, foldl_pushKernel_keeps, eq_of_exec_kclear h]
  rfl

/-! ### The sum of an output pixel -/

/-- An accumulator reduced after every addition agrees with the exact sum modulo `m` (42_filter.md R196). -/
theorem foldl_add_emod {α : Type} (m : ℤ) (f : α → ℤ) (l : List α) (acc : ℤ) :
    l.foldl (fun acc x => (acc + f x) % m) acc % m = (acc + (l.map f).sum) % m := by
  induction l generalizing acc with
  | nil => simp
  | cons x l ih => rw [List.foldl_cons, ih, List.map_cons, List.sum_cons, Int.emod_add_emod, add_assoc]

/-- One term of an output pixel: the sample that kernel position `p` meets, times its coefficient (42_filter.md R197). -/
def State.tap (s : State) (bmode : BMode) (i j : Nat) (p : Nat × Nat) : ℤ :=
  (s.sample bmode (i + p.1 - 1) (j + p.2 - 1)).toNat * s.tapWeight p.1 p.2

/-- An output pixel is the exact sum of its nine terms, reduced modulo 256 (42_filter.md R196, R197). -/
theorem State.filterPixel_eq_sum (s : State) (bmode : BMode) (i j : Nat) :
    ((s.filterPixel bmode i j).toNat : ℤ) = (kernelPositions.map (s.tap bmode i j)).sum % 256 := by
  have hfold := foldl_add_emod 256 (s.tap bmode i j) kernelPositions 0
  rw [zero_add] at hfold
  rw [← hfold, filterPixel, BitVec.toNat_ofInt, Int.toNat_of_nonneg (Int.emod_nonneg _ (by decide))]
  rfl

/-- The kernel positions are the offsets -1, 0, 1 in both directions (42_filter.md R198). -/
theorem sum_kernelPositions (g : ℤ → ℤ → ℤ) : (kernelPositions.map fun p => g (p.1 - 1) (p.2 - 1)).sum =
    ∑ dy ∈ ({-1, 0, 1} : Finset ℤ), ∑ dx ∈ ({-1, 0, 1} : Finset ℤ), g dy dx := by
  simp [kernelPositions, add_assoc]

theorem kernelIndex_lt {p : Nat × Nat} (hp : p ∈ kernelPositions) : 3 * (2 - p.1) + p.2 < 9 := by
  obtain ⟨hrow, hcol⟩ := kernelPositions_le hp
  omega

/-- The weight of a kernel position is one of the nine coefficients (42_filter.md R190, R197). -/
theorem State.tapWeight_eq_get (s : State) {p : Nat × Nat} (hp : p ∈ kernelPositions) :
    s.tapWeight p.1 p.2 = (s.k.get ⟨3 * (2 - p.1) + p.2, kernelIndex_lt hp⟩).toInt := by
  rw [tapWeight, ← s.kernelReg_eq_get]

/-- The effect of FILTER on the pixel in row `i` and column `j` of the destination. -/
theorem effectOf_filter_pixel (s : State) (bmode : BMode) {i j : Nat} (hi : i < s.h) (hj : j < s.w) :
    (effectOf (.filter bmode) s).memRead (s.dst.toNat + (i * s.w + j)) = s.filterPixel bmode i j := by
  have hin : i * s.w + j < s.usz := rowMajor_lt hi hj le_rfl
  obtain ⟨hrow, hcol⟩ := rowMajor_div_mod i hj
  rw [effectOf, State.storeRange_memRead_inside s _ hin, State.filterByte, hrow, hcol]

/-! ### The convolution -/

/-- One step toward the inside is the nearest position inside, for a position at most one step outside
(42_filter.md R194). -/
theorem clampStep_eq_min_max {n : Nat} {x : ℤ} (hn : 0 < n) (hlo : -1 ≤ x) (hhi : x ≤ n) :
    clampStep n x = min (max x 0) (n - 1) := by
  rw [clampStep]
  split
  · omega
  · split <;> omega

/-- The sample of a legal boundary mode is the input pixel of 42_filter.md R198, at most one step outside the image. -/
theorem State.sample_eq_inputPixel (s : State) {bmode : BMode} (hlegal : bmode.legal = true) {ii jj : ℤ}
    (hh : 0 < s.h) (hw : 0 < s.w) (hi : -1 ≤ ii ∧ ii ≤ s.h) (hj : -1 ≤ jj ∧ jj ≤ s.w) :
    ((s.sample bmode ii jj).toNat : ℤ) = inputPixel s bmode ii jj := by
  cases bmode with
  | replicate =>
    rw [sample, inputPixel, if_pos rfl, clampStep_eq_min_max hh hi.1 hi.2, clampStep_eq_min_max hw hj.1 hj.2]
    rfl
  | zeroPad =>
    have hmode : BMode.zeroPad ≠ .replicate := nofun
    rw [sample, inputPixel, if_neg hmode, apply_ite BitVec.toNat, Nat.cast_ite]
    rfl
  | reservedTwo => cases hlegal
  | reservedThree => cases hlegal

/-- The kernel is flipped in its rows only (42_filter.md R197, R198). -/
theorem State.tapWeight_eq_kernelEntry (s : State) {m : Nat} (hm : m ≤ 2) (n : Nat) :
    s.tapWeight m n = kernelEntry s (1 - (m - 1)) (1 + (n - 1)) := by
  have hindex : 3 * (2 - m) + n = (3 * (1 - ((m : ℤ) - 1)) + (1 + ((n : ℤ) - 1))).toNat := by omega
  rw [tapWeight, kernelEntry, hindex]

/-- One term of an output pixel in the words of 42_filter.md R198. -/
theorem State.tap_eq (s : State) {bmode : BMode} (hlegal : bmode.legal = true) {i j : Nat} (hi : i < s.h) (hj : j < s.w)
    {p : Nat × Nat} (hp : p ∈ kernelPositions) :
    s.tap bmode i j p =
      inputPixel s bmode (i + (p.1 - 1)) (j + (p.2 - 1)) * kernelEntry s (1 - (p.1 - 1)) (1 + (p.2 - 1)) := by
  obtain ⟨hrow, hcol⟩ := kernelPositions_le hp
  rw [tap, add_sub_assoc, add_sub_assoc, s.tapWeight_eq_kernelEntry hrow,
    s.sample_eq_inputPixel hlegal (Nat.zero_lt_of_lt hi) (Nat.zero_lt_of_lt hj) (by omega) (by omega)]

/-- Settles O20: the checks pass, and the effect writes the sum of R198 over the source as it was. -/
theorem filterConvolvesTheImage : Obligations.FilterConvolvesTheImage := by
  intro s bmode hlegal hcount hdims hrange hplace
  have hexec := exec_of_pass (checksOf_filter_pass hlegal hcount hdims hrange hplace)
  refine ⟨_, hexec, exec_ended hexec, exec_engineKeeps hexec, exec_kernelKept hexec nofun, fun i j hi hj => ?_,
    s.storeRange_complete_keptOutside _ _ _⟩
  rw [State.complete_memRead, effectOf_filter_pixel s bmode hi hj, s.filterPixel_eq_sum,
    List.map_congr_left fun _ hp => s.tap_eq hlegal hi hj hp,
    sum_kernelPositions fun dy dx => inputPixel s bmode (i + dy) (j + dx) * kernelEntry s (1 - dy) (1 + dx)]

/-! ### The identity kernel -/

/-- The sample at a position inside the image is its pixel, in both boundary modes (42_filter.md R194, R195). -/
theorem State.sample_inside (s : State) {bmode : BMode} (hlegal : bmode.legal = true) {i j : Nat} (hi : i < s.h)
    (hj : j < s.w) : s.sample bmode i j = s.memRead (s.src.toNat + (i * s.w + j)) := by
  have hclamp {n x : Nat} (hx : x < n) : clampStep n x = x := by
    rw [clampStep, if_neg (by omega), if_neg (by omega)]
  cases bmode with
  | replicate => rw [sample, hclamp hi, hclamp hj]; rfl
  | zeroPad => rw [sample, if_pos (by omega)]; rfl
  | reservedTwo => cases hlegal
  | reservedThree => cases hlegal

/-- The identity kernel weights the middle position alone (42_filter.md R199). -/
theorem State.tapWeight_identity {s : State} (hk : ∀ i : Fin 9, s.k.get i = if i = 4 then 1 else 0) {p : Nat × Nat}
    (hp : p ∈ kernelPositions) : s.tapWeight p.1 p.2 = if p = (1, 1) then 1 else 0 := by
  obtain ⟨hrow, hcol⟩ := kernelPositions_le hp
  have hmid : (⟨3 * (2 - p.1) + p.2, kernelIndex_lt hp⟩ : Fin 9) = 4 ↔ p = (1, 1) := by
    rw [Fin.ext_iff, Prod.ext_iff]
    change 3 * (2 - p.1) + p.2 = 4 ↔ p.1 = 1 ∧ p.2 = 1
    omega
  rw [s.tapWeight_eq_get hp, hk, if_congr hmid rfl rfl, apply_ite BitVec.toInt]
  rfl

/-- With the identity kernel an output pixel is the input pixel at its own position (42_filter.md R199). -/
theorem State.filterPixel_identity {s : State} (hk : ∀ i : Fin 9, s.k.get i = if i = 4 then 1 else 0) (bmode : BMode)
    (i j : Nat) : s.filterPixel bmode i j = s.sample bmode i j := by
  have htap : ∀ p ∈ kernelPositions,
      s.tap bmode i j p = if p = (1, 1) then ((s.sample bmode i j).toNat : ℤ) else 0 := by
    intro p hp
    rw [tap, tapWeight_identity hk hp, mul_ite, mul_one, mul_zero]
    split
    · next hp => simp [hp]
    · rfl
  have hsingle (x : ℤ) : (kernelPositions.map fun p => if p = (1, 1) then x else 0).sum = x := by simp [kernelPositions]
  have hsum := s.filterPixel_eq_sum bmode i j
  rw [List.map_congr_left htap, hsingle] at hsum
  apply BitVec.eq_of_toNat_eq
  omega

/-- Settles O22: the effect copies the pixel, whichever boundary mode. -/
theorem identityKernelCopiesTheImage : Obligations.IdentityKernelCopiesTheImage := by
  intro s t bmode hlegal _ hk hexec hok i j hi hj
  rw [exec_effect_of_ok hexec hok, State.complete_memRead, effectOf_filter_pixel s bmode hi hj,
    State.filterPixel_identity hk, s.sample_inside hlegal hi hj]

/-! ### The low bytes of the kernel -/

/-- A coefficient is its low byte modulo 256 (42_filter.md R196). -/
theorem toInt_modEq_low_byte (v : Word) : v.toInt ≡ (v.setWidth 8).toNat [ZMOD 256] := by
  rw [Int.ModEq, BitVec.toNat_setWidth, BitVec.toInt_eq_toNat_cond]
  split <;> omega

/-- Each coefficient of `k'` has the low byte of the one of `k`. -/
def SameLowBytes (k k' : Vector Word 9) : Prop := ∀ i : Fin 9, (k'.get i).setWidth 8 = (k.get i).setWidth 8

/-- Coefficients with the same low bytes weight a kernel position alike modulo 256 (42_filter.md R196). -/
theorem SameLowBytes.tapWeight {s : State} {k' : Vector Word 9} (hk : SameLowBytes s.k k') {p : Nat × Nat}
    (hp : p ∈ kernelPositions) :
    ({ s with k := k' } : State).tapWeight p.1 p.2 ≡ s.tapWeight p.1 p.2 [ZMOD 256] := by
  have hlow := hk ⟨3 * (2 - p.1) + p.2, kernelIndex_lt hp⟩
  rw [State.tapWeight_eq_get _ hp, State.tapWeight_eq_get _ hp]
  exact (toInt_modEq_low_byte _).trans (hlow ▸ (toInt_modEq_low_byte _).symm)

/-- Every step of the accumulator is taken modulo 256, so a weight counts modulo 256 only (42_filter.md R196). -/
theorem SameLowBytes.filterPixel {s : State} {k' : Vector Word 9} (hk : SameLowBytes s.k k') (bmode : BMode)
    (i j : Nat) : ({ s with k := k' } : State).filterPixel bmode i j = s.filterPixel bmode i j :=
  congrArg (BitVec.ofInt 8) (List.foldl_ext _ _ _ fun acc _ hp => ((hk.tapWeight hp).mul_left _).add_left acc)

/-- The effect of FILTER on a kernel file with the same low bytes (42_filter.md R196). -/
theorem SameLowBytes.effectOf_filter {s : State} {k' : Vector Word 9} (hk : SameLowBytes s.k k') (bmode : BMode) :
    effectOf (.filter bmode) { s with k := k' } = { effectOf (.filter bmode) s with k := k' } := by
  have hbyte : ({ s with k := k' } : State).filterByte bmode = s.filterByte bmode :=
    funext fun j => hk.filterPixel bmode (j / s.w) (j % s.w)
  rw [effectOf, hbyte]
  rfl

/-- Settles O23: no check reads a coefficient, and the effect reads each modulo 256. -/
theorem filterReadsOnlyLowKernelBytes : Obligations.FilterReadsOnlyLowKernelBytes := by
  intro s t bmode k' hlow h
  have hk : SameLowBytes s.k k' := hlow
  have hchecks : checksOf (.filter bmode) { s with k := k' } = checksOf (.filter bmode) s := rfl
  rw [exec_eq_runChecked, hchecks]
  obtain ⟨e, -, he, rfl⟩ | ⟨hpass, rfl⟩ := exec_cases h
  · rw [State.runChecked_of_error he]
    rfl
  · rw [State.runChecked_of_pass hpass, hk.effectOf_filter]
    rfl

end Sys2Proof.Machine

/-! What every completion ends with, the turns a pending command waits for, and NOP; from these the statements of
43_control.md. -/

namespace Sys2Proof.Machine

/-! ### The end of a completion -/

/-- Settles O11: an error is raised with no other effect, and only a success can change PIXMEM or the kernel file. -/
theorem everyCommandCompletes : Obligations.EveryCommandCompletes := by
  intro i s
  obtain ⟨t, h⟩ := exec_next i s
  refine ⟨t, t.status.ecode, h, exec_ended h, exec_engineKeeps h, fun hne => ?_⟩
  obtain ⟨e, -, -, rfl⟩ | ⟨-, rfl⟩ := exec_cases h
  · exact ⟨⟨rfl, rfl⟩, fun _ => rfl⟩
  · exact absurd rfl hne

/-- Every completion, of a legal word or not, clears BUSY and sets DONE (43_control.md R232). -/
theorem State.completePending_ends (s : State) :
    ∃ t, s.completePending = .next t ∧ t.status.busy = false ∧ t.status.done = true := by
  obtain ⟨t, h⟩ := s.completePending_next
  have hst := completePending_status h
  exact ⟨t, h, congrArg Status.busy hst, congrArg Status.done hst⟩

/-! ### Progress of a pending command -/

/-- No host write takes BUSY away (10_state.md R25, R46). -/
theorem State.hostWrite_keeps_busy {s : State} (hb : s.status.busy = true) (wa : BusAddr) (v : Word)
    (strb : BitVec 4) : (s.hostWrite wa v strb).status.busy = true := by
  obtain h | ⟨-, -, h⟩ | ⟨-, -, h⟩ | ⟨-, -, -, h⟩ := s.hostWrite_status_cases wa v strb
  · rw [h, hb]
  · rw [h, Status.cleared_busy, hb]
  · rw [h, issue_status, Status.issued_busy]
  · rw [h, Status.writeDropped_busy, hb]

/-- From `s` to `t` the pending command has completed, or it is still pending and one turn has left the agenda. -/
def CompletesOrAdvances (s t : State) : Prop :=
  (t.status.busy = false ∧ t.status.done = true) ∨ (t.status.busy = true ∧ ∃ x, s.agenda = x :: t.agenda)

/-- A step that is a completion, whatever became of the agenda. -/
theorem step_completes {s u : State} (h : step s = u.completePending) :
    ∃ t, step s = .next t ∧ CompletesOrAdvances s t := by
  obtain ⟨t, ht, hend⟩ := u.completePending_ends
  exact ⟨t, h.trans ht, .inl hend⟩

/-- While a command is pending, each turn but a reset completes it, or is a host access that leaves it pending
(20_memory.md R76, 43_control.md R231). -/
theorem step_completes_or_advances {s : State} (hb : s.status.busy = true) (hreset : Turn.reset ∉ s.agenda) :
    ∃ t, step s = .next t ∧ CompletesOrAdvances s t := by
  cases ha : s.agenda with
  | nil => exact step_completes (step_busy_nil ha hb)
  | cons x rest =>
    cases x with
    | engine => exact step_completes (step_engine ha hb)
    | read wa =>
      cases hs : s.stalls wa with
      | true => exact step_completes (step_stalled_read ha hs)
      | false => exact ⟨_, step_hostRead ha hs, .inr ⟨hb, _, ha⟩⟩
    | write wa v strb =>
      cases hs : s.stalls wa with
      | true => exact step_completes (step_stalled_write ha hs)
      | false =>
        have hbusy := State.hostWrite_keeps_busy (s := { s with agenda := rest }) hb wa v strb
        obtain ⟨ie, st, hw⟩ := State.hostWrite_of_busy (s := { s with agenda := rest }) hb hs v strb
        exact ⟨_, step_hostWrite ha hs, .inr ⟨hbusy, _, by rw [hw, ha]⟩⟩
    | reset => exact absurd (ha ▸ List.mem_cons_self) hreset

/-- Settles O57, by induction on the turns still to come: each step completes the command or shortens them. -/
theorem pendingCommandCompletes : Obligations.PendingCommandCompletes := by
  intro s
  induction hl : s.agenda generalizing s with
  | nil =>
    intro hb _
    obtain ⟨t, ht, hend⟩ := s.completePending_ends
    exact ⟨1, t, by simp, run_succ ((step_busy_nil hl hb).trans ht), hend⟩
  | cons x rest ih =>
    intro hb hreset
    obtain ⟨t, ht, hend | ⟨htb, y, hy⟩⟩ := step_completes_or_advances hb (hl ▸ hreset)
    · exact ⟨1, t, by simp, run_succ ht, hend⟩
    · obtain ⟨-, hrest⟩ := List.cons.inj (hl.symm.trans hy)
      obtain ⟨n, u, hn, hrun, hend⟩ := ih t hrest.symm htb (fun h => hreset (List.mem_cons_of_mem x h))
      exact ⟨n + 1, u, by simpa using hn, (run_succ ht).trans hrun, hend⟩

/-! ### The step of a pending command, and of an idle BPE -/

/-- Settles O5: each of the four steps is the completion of PENDING, and that of a legal word is its command. -/
theorem stepRunsThePendingCommand : Obligations.StepRunsThePendingCommand := by
  intro s i hb hd
  have hexec : s.completePending = exec i s := State.completePending_of_ok hd
  refine ⟨fun rest ha => ?_, fun ha => (step_busy_nil ha hb).trans hexec, fun wa rest ha hlo hhi => ?_,
    fun wa v strb rest ha hlo hhi => ?_⟩
  · exact (step_engine ha hb).trans (State.completePending_of_ok (s := { s with agenda := rest }) hd)
  · exact (step_stalled_read ha (State.stalls_window hb hlo hhi)).trans hexec
  · exact (step_stalled_write ha (State.stalls_window hb hlo hhi)).trans hexec

/-- Settles O7: while BUSY = 0 the engine's move does nothing. -/
theorem idleEngineDoesNothing : Obligations.IdleEngineDoesNothing :=
  fun _ hidle => ⟨fun ha => step_idle_nil ha hidle, fun _ ha => step_idle_engine ha hidle⟩

/-! ### NOP -/

/-- NOP has no checks and no effect (43_control.md R233). -/
theorem exec_nop (s : State) : exec .nop s = .next s.complete := exec_of_pass (i := .nop) rfl

/-- What NOP leaves, from its result (43_control.md R233). -/
theorem eq_of_exec_nop {s t : State} (h : exec .nop s = .next t) : t = s.complete :=
  (Host.Outcome.next.inj ((exec_nop s).symm.trans h)).symm

/-- Only NOP has opcode 0 (30_encoding.md R102). -/
theorem eq_nop_of_encodeOp {i : Instr} (h : encodeOp i = 0) : i = .nop := by
  cases i with
  | nop => rfl
  | thresh | filter | unpad | pad | kclear => simp [encodeOp] at h

/-- With OP = 0 every word but 0 is ILLEGAL (43_control.md R233). -/
theorem decode_error_of_opField_zero {c : Word} (hop : opField c = 0) (hne : c ≠ 0) :
    ∃ e, decode c = .error e := by
  cases hd : decode c with
  | error e => exact ⟨e, rfl⟩
  | ok i =>
    obtain ⟨-, henc⟩ := (decodeExactlyInvertsEncode c i).mp hd
    obtain ⟨-, hopc, -⟩ := (encode_eq_iff i c).mp henc
    rw [eq_nop_of_encodeOp (hopc.symm.trans hop)] at henc
    exact absurd henc.symm hne

/-- A STATUS that reads as 0 holds no flag and the code 0 (10_state.md R24). -/
theorem Status.flags_of_word_zero {st : Status} (h : st.word = 0) : st.err = false ∧ st.busywr = false := by
  have herr := st.word_getLsbD 2
  have hbusywr := st.word_getLsbD 3
  rw [h] at herr hbusywr
  exact ⟨by simpa using herr.symm, by simpa using hbusywr.symm⟩

/-- Settles O12: NOP only completes, an ILLEGAL neighbour only raises ERR_CMD, and a clear STATUS then reads 2. -/
theorem nopOnlyReportsCompletion : Obligations.NopOnlyReportsCompletion := by
  refine ⟨rfl, exec_nop, fun s t hie ht => ?_, fun c hop hne s hc => ?_, fun s t c hzero ht => ?_⟩
  · obtain rfl := eq_of_exec_nop ht
    rw [State.irq, State.complete_ctrlIE, hie, State.complete_status, Status.completed_done, Bool.and_true]
  · obtain ⟨e, he⟩ := decode_error_of_opField_zero hop hne
    exact State.completePending_of_error (hc ▸ he)
  · obtain rfl := eq_of_exec_nop ht
    obtain ⟨herr, hbusywr⟩ := Status.flags_of_word_zero hzero
    have hst : (s.issue c).complete.status = { Status.reset with done := true } := by
      simp [State.complete, State.issue, Status.completed, Status.issued, Status.reset, herr, hbusywr]
    exact congrArg Status.word hst

end Sys2Proof.Machine

/-! That no step stops, and the IRQ output: the statements of 60_exceptions.md. -/

namespace Sys2Proof.Machine

/-! ### Every step goes on -/

/-- A completion always ends in a next state, so a step that is one goes on. -/
theorem safeStep_of_completion {s u : State} (h : step s = u.completePending) : SafeStep s := by
  obtain ⟨t, ht⟩ := u.completePending_next
  exact ⟨t, h.trans ht⟩

/-- Settles O8, by the turn that comes next: it is a completion, or its next state is given outright. -/
theorem everyStepGoesOn : Obligations.EveryStepGoesOn := by
  intro s
  cases ha : s.agenda with
  | nil =>
    cases hb : s.status.busy with
    | true => exact safeStep_of_completion (step_busy_nil ha hb)
    | false => exact ⟨_, step_idle_nil ha hb⟩
  | cons x rest =>
    cases x with
    | engine =>
      cases hb : s.status.busy with
      | true => exact safeStep_of_completion (step_engine ha hb)
      | false => exact ⟨_, step_idle_engine ha hb⟩
    | read wa =>
      cases hs : s.stalls wa with
      | true => exact safeStep_of_completion (step_stalled_read ha hs)
      | false => exact ⟨_, step_hostRead ha hs⟩
    | write wa v strb =>
      cases hs : s.stalls wa with
      | true => exact safeStep_of_completion (step_stalled_write ha hs)
      | false => exact ⟨_, step_hostWrite ha hs⟩
    | reset => exact ⟨_, step_reset ha⟩

/-! ### The IRQ output -/

/-- IE is bit 0 of CTRL as the host reads it (10_state.md R23). -/
theorem State.readReg_ctrl_getLsbD_zero (s : State) : (s.readReg .ctrl).getLsbD 0 = s.ctrlIE := by
  rw [readReg_ctrl]
  cases s.ctrlIE <;> rfl

/-- DONE is bit 1 of STATUS as the host reads it (10_state.md R24). -/
theorem State.readReg_status_getLsbD_one (s : State) : (s.readReg .status).getLsbD 1 = s.status.done :=
  s.status.word_getLsbD 1

/-- A completion, with or without an error, keeps IE and sets DONE (43_control.md R232, 60_exceptions.md R261). -/
theorem State.completePending_irq {s t : State} (h : s.completePending = .next t) : t.irq = s.ctrlIE := by
  have hkeep := completePending_engineKeeps h
  rw [irq, hkeep.ctrlIE, completePending_status h, Status.ended_done, Bool.and_true]

/-- A CTRL write is accepted whether or not a command is pending, and stores IE (10_state.md R23). -/
theorem State.writeReg_ctrl (s : State) (v : Word) :
    s.writeReg .ctrl v 0b1111 = { s with ctrlIE := v.getLsbD 0 } :=
  writeReg_of_accepted (r := .ctrl) (fun hg => absurd hg (by decide)) v

/-- A STATUS write is accepted whether or not a command is pending, and clears bits (10_state.md R25). -/
theorem State.writeReg_status (s : State) (v : Word) :
    s.writeReg .status v 0b1111 = { s with status := s.status.cleared v } :=
  writeReg_of_accepted (r := .status) (fun hg => absurd hg (by decide)) v

/-- Settles O51: the host's two bits, what a completion and the two unguarded writes do to them, and their reset
values. -/
theorem irqIsEnableAndDone : Obligations.IrqIsEnableAndDone := by
  refine ⟨fun s => ?_, fun _ _ h => State.completePending_irq h, fun s v => ?_, fun s v hv => ?_, fun _ => rfl⟩
  · rw [s.readReg_ctrl_getLsbD_zero, s.readReg_status_getLsbD_one, State.irq]
  · rw [s.writeReg_ctrl]
    exact ⟨rfl, rfl⟩
  · rw [s.writeReg_status, State.irq, Status.cleared_done, hv, Bool.not_true, Bool.and_false, Bool.and_false]

end Sys2Proof.Machine

/-! The reset input: the statement of 70_reset_and_hazards.md. -/

namespace Sys2Proof.Machine

/-- No interrupt survives a reset: IE and DONE are both 0 (60_exceptions.md R260). -/
@[simp] theorem State.applyReset_irq (s : State) : s.applyReset.irq = false := rfl

/-- A byte not written since the last reset reads as its free draw (20_memory.md R79). -/
theorem State.memRead_of_unwritten {s : State} {a : Nat} (h : Memory.lookup s.pixmem a = none) :
    s.memRead a = Config.freePix s.resets a := by
  rw [memRead, h, Option.getD_none]

/-- A reset leaves no byte written, so every byte is drawn anew (70_reset_and_hazards.md R281). -/
@[simp] theorem State.applyReset_memRead (s : State) (a : Nat) :
    s.applyReset.memRead a = Config.freePix (s.resets + 1) a :=
  memRead_of_unwritten rfl

/-- Settles O50: the step is the reset of the state whose agenda is the rest, and a reset's fields are known. -/
theorem resetDiscardsThePendingCommand : Obligations.ResetDiscardsThePendingCommand := by
  intro s rest ha
  refine ⟨({ s with agenda := rest } : State).applyReset, step_reset ha, ?_⟩
  simp [kernel_zero_get]

end Sys2Proof.Machine
